-- ==== Sys2Proof/Word.lean ====
section
/-! DEFINITION. The word types of the Tormaj 6140's host bus, register window and branch links. -/

namespace Sys2Proof

/-- One byte of a data field or a frame. -/
abbrev Byte := BitVec 8

/-- One register of the register window; its bit n travels on HDn (R157). -/
abbrev Word := BitVec 32

/-- A byte address in the 4 MiB host space, HA21–HA0 (R156). -/
abbrev HostAddr := BitVec 22

/-- A register address in a node's own register space, 0–65535 (R2). -/
abbrev RegAddr := BitVec 16

end Sys2Proof
end

