-- ==== Sys2Proof/Syntax.lean ====
section
/-! DEFINITION. The commands of the part: one constructor per row of spec/opcode_table.json, with the
operands the event of that row carries from outside (an access, a register's data, a frame, a timer). -/

namespace Sys2Proof

/-- A master number as the access presents it on HM1–HM0, 0–3 (R156). -/
abbrev Master := Fin 4

/-- A Request Table slot number, 0–11 (R1). -/
abbrev Slot := Fin 12

/-- A node address as frames carry it: 0 is broadcast, 1–31 are nodes (R97). -/
abbrev Node := Fin 32

/-- The four branches, codes 0–3 for A–D in every layout (section 10.8). -/
inductive Branch where
  | a
  | b
  | c
  | d
  deriving DecidableEq, Repr

/-- Direction of an access on HRW and kind of a deferred request (R2). -/
inductive Kind where
  | read
  | write
  deriving DecidableEq, Repr

/-- One host access as the bus master presents it: master number, direction, address, width code and the
four data lanes, which only a write uses (R156). -/
structure Access where
  master    : Master
  kind      : Kind
  addr      : HostAddr
  widthCode : BitVec 2
  lanes     : Word
  deriving DecidableEq, Repr

/-- A line rate: `kbps` at a tick made of `divisor` REFCLK periods. The true rate is proportional to
`kbps / divisor` (R159), so different pairs may name one rate. -/
structure LineRate where
  kbps    : Nat
  divisor : Nat
  deriving DecidableEq, Repr

/-- What stands on a branch line from a start mark to the place that ends the arrival (R167, R169): the bytes,
whether the place after them holds an end mark, and the rate the sender used. -/
structure RxFrame where
  bytes   : List Byte
  endMark : Bool
  rate    : LineRate
  deriving DecidableEq, Repr

/-- The timers of the part (R159): claim timers, reservation timers, reply windows, and the hold delays of the
park slot and of BACKOFF. -/
inductive Timer where
  | claim (k : Slot)
  | reservation (m : Master)
  | replyWindow (x : Branch)
  | parkedHold (x : Branch)
  | backoffHold (x : Branch)
  deriving DecidableEq, Repr

/-- The commands, one constructor per row of spec/opcode_table.json. -/
inductive Instr where
  /-- HOST_ACCESS: the port takes one access and runs admission on it (R43). -/
  | hostAccess (a : Access)
  /-- REGISTER_WRITE: a write at an offset of the register window with no row of its own (R162). -/
  | registerWrite (m : Master) (offset : BitVec 12) (widthCode : BitVec 2) (data : Word)
  /-- CLAIM_WINDOW_WRITE: the word written to 0x014 (R36). -/
  | claimWindowWrite (m : Master) (data : Word)
  /-- RESERVATION_WINDOW_WRITE: the word written to 0x018 (R21). -/
  | reservationWindowWrite (m : Master) (data : Word)
  /-- ATTENTION_ENABLES_WRITE: the word written to 0x04C (R154). -/
  | attentionEnablesWrite (m : Master) (data : Word)
  /-- ABANDON: master `m` writes `target` to 0x01C (R22). -/
  | abandon (m : Master) (target : Master)
  /-- PROBE: branch and node written to 0x050 (R130). -/
  | probe (m : Master) (x : Branch) (n : Node)
  /-- REVIVE: branch and node written to 0x054 (R131). -/
  | revive (m : Master) (x : Branch) (n : Node)
  /-- COMMAND_REFUSED_CLEAR: one written to bit 0 of 0x020 (R133). -/
  | commandRefusedClear (m : Master)
  /-- QUIESCE written to a branch command field (R137). -/
  | quiesce (m : Master) (x : Branch)
  /-- RESUME written to a branch command field (R141). -/
  | resume (m : Master) (x : Branch)
  /-- HOLD written to a branch command field (R142). -/
  | hold (m : Master) (x : Branch)
  /-- RELEASE written to a branch command field (R144). -/
  | release (m : Master) (x : Branch)
  /-- POP: one written to bit 0 of 0x040 (R152). -/
  | pop (m : Master)
  /-- OVERRUN_CLEAR: one written to bit 1 of 0x048, zero to the QUIESCED_x bits (R150). -/
  | overrunClear (m : Master)
  /-- QUIESCED_CLEAR: `flags`, bit 0 for A to bit 3 for D, written to bits 7–4 of 0x048 (R153). -/
  | quiescedClear (m : Master) (flags : BitVec 4)
  /-- CHIP_RESET: one written to bit 0 of 0x004 (R161). -/
  | chipReset (m : Master)
  /-- CHIP_RESET_END (R161). -/
  | chipResetEnd
  /-- PIN_RESET: RST_N goes low (R160). -/
  | pinReset
  /-- INITIALISATION_END (R160). -/
  | initialisationEnd
  /-- CLAIM_TIMER_EXPIRY of the entry in slot `k` (R38). -/
  | claimTimerExpiry (k : Slot)
  /-- RESERVATION_EXPIRY of the reservation of master `m` (R20). -/
  | reservationExpiry (m : Master)
  /-- CHOICE_EVENT of branch `x` (R82). -/
  | choiceEvent (x : Branch)
  /-- SEND_COMPLETE on branch `x` (R104). -/
  | sendComplete (x : Branch)
  /-- REPLY_FRAME: a frame arrives on branch `x` (R105, R169). -/
  | replyFrame (x : Branch) (f : RxFrame)
  /-- REPLY_WINDOW_EXPIRY on branch `x` (R110). -/
  | replyWindowExpiry (x : Branch)
  /-- PARKED_HOLD_DELAY_EXPIRY on branch `x` (R108). -/
  | parkedHoldDelayExpiry (x : Branch)
  /-- BACKOFF_HOLD_DELAY_EXPIRY on branch `x` (R109). -/
  | backoffHoldDelayExpiry (x : Branch)
  /-- DRAIN_COMPLETE of branch `x` (R139). -/
  | drainComplete (x : Branch)
  /-- RST_N_RELEASE: RST_N goes high (R160). -/
  | rstNRelease
  /-- START_MARK: a start mark is received on the line of branch `x` (R169). -/
  | startMark (x : Branch)
  /-- UNKNOWN_BRANCH_COMMAND: a code that names no command is written to a branch command field (R136). -/
  | unknownBranchCommand (m : Master) (x : Branch) (code : BitVec 4)
  /-- MICROSECOND_TICK: one tick (R159); of the timers it brings to zero, those in `order` expire first, in the order
  listed. -/
  | microsecondTick (order : List Timer)
  deriving DecidableEq, Repr

end Sys2Proof
end

