-- ==== Sys2Proof/Config.lean ====
section
/-! DEFINITION. The sizes and fixed limits the manual gives the part. The manual leaves no value of the
part's open, so no constant here is opaque. -/

namespace Sys2Proof.Config

/-- Depth of each Posted Queue (R65). -/
def postedDepth : Nat := 8

/-- Depth of the Record Queue (R147). -/
def recordDepth : Nat := 16

/-- The largest quota (R13). -/
def quotaMax : Nat := 12

/-- The fixed probe-deferral limit (R91). -/
def probeDeferralLimit : Nat := 8

/-- Where the posted-run count stays (R90). -/
def postedRunMax : Nat := 15

/-- Where a node's consecutive failures stay (R124). -/
def failuresMax : Nat := 15

/-- Where a node's dropped-write count stays (R55, R128). -/
def droppedMax : Nat := 255

/-- Microseconds of tick in one unit of the claim window setting (R36). -/
def claimUnit : Nat := 16

/-- Microseconds of tick in one unit of the reservation window setting (R21). -/
def reservationUnit : Nat := 4

/-- Microseconds of tick in one unit of the reply window and hold delay settings (R99). -/
def linkUnit : Nat := 10

/-- First host address above the register window (R45). -/
def windowSize : Nat := 4096

/-- The identification word (R170). -/
def identification : Nat := 0x00016140

/-- The generator x^16 + x^12 + x^5 + 1 without its top bit (R102). -/
def checkPoly : BitVec 16 := 0x1021

/-- The value the check register starts at (R102). -/
def checkStart : BitVec 16 := 0xFFFF

end Sys2Proof.Config
end

