-- ==== Sys2Proof/Machine/State.lean ====
section
/-! DEFINITION. Every piece of state the manual gives the Tormaj 6140, as plain data, and the state a pin reset
leaves when its initialisation has ended. -/

namespace Sys2Proof

/-- One value for each master. -/
structure PerMaster (α : Type) where
  m0 : α
  m1 : α
  m2 : α
  m3 : α
  deriving DecidableEq, Repr

/-- One value for each branch. -/
structure PerBranch (α : Type) where
  a : α
  b : α
  c : α
  d : α
  deriving DecidableEq, Repr

variable {α : Type}

def PerMaster.get (p : PerMaster α) : Master → α
  | 0 => p.m0
  | 1 => p.m1
  | 2 => p.m2
  | 3 => p.m3

def PerMaster.set (p : PerMaster α) (m : Master) (v : α) : PerMaster α :=
  match m with
  | 0 => { p with m0 := v }
  | 1 => { p with m1 := v }
  | 2 => { p with m2 := v }
  | 3 => { p with m3 := v }

def PerBranch.get (p : PerBranch α) : Branch → α
  | .a => p.a
  | .b => p.b
  | .c => p.c
  | .d => p.d

def PerBranch.set (p : PerBranch α) (x : Branch) (v : α) : PerBranch α :=
  match x with
  | .a => { p with a := v }
  | .b => { p with b := v }
  | .c => { p with c := v }
  | .d => { p with d := v }

end Sys2Proof

namespace Sys2Proof.Machine

/-! ## Small named sets of values -/

/-- An access width: 1, 2 or 4 bytes (R158). -/
inductive Width where
  | w1
  | w2
  | w4
  deriving DecidableEq, Repr

/-- REPORT or ABSORB: how a failed access is answered (R46). -/
inductive ErrorMode where
  | report
  | absorb
  deriving DecidableEq, Repr

/-- Route of an aperture's writes (R46, R57). -/
inductive RouteClass where
  | posted
  | deferred
  deriving DecidableEq, Repr

/-- The outcome of a finished deferred request, with a denial's reason code (R2). -/
inductive Outcome where
  | ok
  | nodeDenied (reason : BitVec 4)
  | busyLimit
  | noReply
  | nodeOffline
  | branchReset
  deriving DecidableEq, Repr

/-! ## The Request Table (chapters 1 and 2) -/

/-- An outcome's name alone, as a CLAIM_EXPIRED record carries it: without a node reason code (R38, R148). -/
inductive OutcomeName where
  | ok
  | nodeDenied
  | busyLimit
  | noReply
  | nodeOffline
  | branchReset
  deriving DecidableEq, Repr

/-- State of a live entry, with the fields that exist only in that state (R2): the abandoned mark while ISSUED;
the outcome, the read data and the running claim timer's time remaining while READY. -/
inductive EntryState where
  | pending
  | issued (abandoned : Bool)
  | ready (outcome : Outcome) (readData : Option (List Byte)) (claimLeft : Option Nat)
  deriving DecidableEq, Repr

/-- A live entry (R2). `writeData` is empty for a READ; byte k of it is the byte at host address + k.
`postedAhead` keeps its value after PENDING, without effect (R70). -/
structure Entry where
  slot        : Slot
  master      : Master
  kind        : Kind
  hostAddr    : HostAddr
  width       : Width
  writeData   : List Byte
  branch      : Branch
  node        : Node
  regAddr     : RegAddr
  fetchWidth  : Width
  wordFetch   : Bool
  errorMode   : ErrorMode
  postedAhead : Nat
  state       : EntryState
  deriving DecidableEq, Repr

/-- A reservation record of one master: the slot and the time remaining (R18). -/
structure Reservation where
  slot      : Slot
  remaining : Nat
  deriving DecidableEq, Repr

/-! ## The Aperture Map (chapter 3) -/

/-- An aperture record (R46). `basePage` is host address bits 21–8; `sizeCode` 0–8 is 256 B to 64 KiB. -/
structure Aperture where
  enable    : Bool
  cls       : RouteClass
  readOk    : Bool
  writeOk   : Bool
  errorMode : ErrorMode
  wordFetch : Bool
  basePage  : BitVec 14
  sizeCode  : Nat
  regBase   : RegAddr
  node      : Node
  branch    : Branch
  deriving DecidableEq, Repr

/-- The zero values every aperture holds after either reset (R46). -/
def apertureReset : Aperture :=
  { enable := false, cls := .posted, readOk := false, writeOk := false, errorMode := .report, wordFetch := false,
    basePage := 0, sizeCode := 0, regBase := 0, node := 0, branch := .a }

/-! ## Posted Queues (chapter 4) -/

/-- A posted record (R66). -/
structure PostedRecord where
  master      : Master
  hostAddr    : HostAddr
  node        : Node
  regAddr     : RegAddr
  width       : Width
  data        : List Byte
  holdsUsed   : Nat
  resendsUsed : Nat
  deriving DecidableEq, Repr

/-! ## The Link Engine (chapter 6) -/

/-- Where a transaction came from (R97). -/
inductive Source where
  | posted
  | slot (k : Slot)
  | probeSet
  | resync
  deriving DecidableEq, Repr

/-- Operation of a command frame (R97). -/
inductive Op where
  | read
  | write
  | probe
  deriving DecidableEq, Repr

/-- A transaction record (R97). `data` is empty for READ and PROBE. -/
structure Txn where
  source      : Source
  node        : Node
  op          : Op
  regAddr     : RegAddr
  width       : Width
  data        : List Byte
  parity      : Bool
  resendsUsed : Nat
  holdsUsed   : Nat
  deriving DecidableEq, Repr

/-- The engine states with the current transaction, the running timer, and, in TRANSMIT, the rate the frame
began at (R96, R98). -/
inductive Engine where
  | off
  | idle
  | transmit (tx : Txn) (rate : LineRate)
  | await (tx : Txn) (window : Nat)
  | backoff (tx : Txn) (delay : Nat)
  deriving DecidableEq, Repr

/-- A parked transaction's hold delay: still running, or expired (R96, R108). -/
inductive HoldDelay where
  | waiting (remaining : Nat)
  | due
  deriving DecidableEq, Repr

/-- The occupant of the park slot (R96). -/
structure Parked where
  tx    : Txn
  delay : HoldDelay
  deriving DecidableEq, Repr

/-- The line receiver (R169): no frame on the line; a reception as a reply, with the rate it began at; or a frame
whose start mark came outside AWAIT, ignored until its end mark. -/
inductive Receiver where
  | clear
  | receiving (rate : LineRate)
  | ignoring
  deriving DecidableEq, Repr

/-- The five bit rates (R98). -/
inductive BitRate where
  | k125
  | k250
  | k500
  | k1000
  | k2000
  deriving DecidableEq, Repr

/-- The branch settings software writes at +0x08 and +0x0C (R90, R98, R99, R122). -/
structure BranchSettings where
  bitRate          : BitRate
  postedAllowance  : Nat
  offlineThreshold : Nat
  replyWindow      : Nat
  holdDelay        : Nat
  resendLimit      : Nat
  holdLimit        : Nat
  deriving DecidableEq, Repr

/-- The reset values of the branch settings (R90, R98, R99, R122). -/
def settingsReset : BranchSettings :=
  { bitRate := .k250, postedAllowance := 4, offlineThreshold := 3, replyWindow := 50, holdDelay := 20,
    resendLimit := 2, holdLimit := 256 }

/-! ## The Node Table (chapter 7) -/

/-- Health of a node (R121). -/
inductive NodeState where
  | unknown
  | online
  | suspect
  | offline
  deriving DecidableEq, Repr

/-- A node's next write parity: 0 or 1, or UNSURE (R121). -/
inductive Parity where
  | known (p : Bool)
  | unsure
  deriving DecidableEq, Repr

/-- A node record (R121). -/
structure NodeRecord where
  state    : NodeState
  failures : Nat
  parity   : Parity
  nodeType : Option Byte
  dropped  : Nat
  deriving DecidableEq, Repr

/-- A node record after either reset and on the branch's entry into HELD (R121). -/
def nodeReset : NodeRecord :=
  { state := .unknown, failures := 0, parity := .known false, nodeType := none, dropped := 0 }

/-! ## Branch Control (chapter 8) -/

/-- The branch state (R135). -/
inductive BranchState where
  | active
  | draining
  | quiesced
  | held
  deriving DecidableEq, Repr

/-- Everything that exists once per branch: the branch state, the Posted Queue with its head's in-flight mark, the
scheduler's two counts, the settings, the Link Engine, its park slot and receiver, the 31 node records (node n at
place n − 1) and the probe set in ascending order. -/
structure BranchUnit where
  ctrl          : BranchState
  queue         : List PostedRecord
  headInFlight  : Bool
  postedRun     : Nat
  probeDeferral : Nat
  settings      : BranchSettings
  engine        : Engine
  park          : Option Parked
  receiver      : Receiver
  nodes         : Vector NodeRecord 31
  probeSet      : List Node
  deriving DecidableEq, Repr

/-- A branch after either reset (R80, R95, R120, R134, R146). -/
def branchReset : BranchUnit :=
  { ctrl := .held, queue := [], headInFlight := false, postedRun := 0, probeDeferral := 0, settings := settingsReset,
    engine := .off, park := none, receiver := .clear, nodes := Vector.replicate 31 nodeReset, probeSet := [] }

/-! ## Exception records and attention (chapter 9) -/

/-- Cause of an ACCESS_FAULT record (R148). -/
inductive FaultCause where
  | misaligned
  | undefinedRegister
  | unmapped
  | notPermitted
  | broadcastRead
  | quotaZero
  deriving DecidableEq, Repr

/-- Reason of a POSTED_DROPPED record, with the reason code of a denial (R148). -/
inductive DropReason where
  | nodeDenied (reason : BitVec 4)
  | busyLimit
  | noReply
  deriving DecidableEq, Repr

/-- Kind and fields of an exception record (R148). -/
inductive RecordBody where
  | accessFault (cause : FaultCause) (master : Master) (addr : HostAddr)
  | claimExpired (master : Master) (slot : Slot) (addr : HostAddr) (kind : Kind) (outcome : OutcomeName)
  | postedDropped (branch : Branch) (node : Node) (master : Master) (addr : HostAddr) (reason : DropReason)
  | postedFlushed (branch : Branch) (count : Nat)
  | nodeOffline (branch : Branch) (node : Node)
  | nodeRecovered (branch : Branch) (node : Node)
  | masterAbandoned (master : Master) (freed : Nat) (marked : Nat)
  deriving DecidableEq, Repr

/-- An exception record with its sequence number (R148). -/
structure ExcRecord where
  seq  : BitVec 8
  body : RecordBody
  deriving DecidableEq, Repr

/-- The six attention enables (R154). -/
structure Enables where
  recordPending : Bool
  overrun       : Bool
  quiesced      : PerBranch Bool
  deriving DecidableEq, Repr

/-- All six enables off (R154). -/
def enablesReset : Enables :=
  { recordPending := false, overrun := false, quiesced := ⟨false, false, false, false⟩ }

/-! ## The host port and the two resets (chapter 10) -/

/-- The port's phase (R156). RESET is told apart by its cause, since each reset has its own end: RST_N low,
the initialisation after RST_N has gone high, and a chip reset. -/
inductive Phase where
  | run
  | pinLow
  | initialising
  | chipReset
  deriving DecidableEq, Repr

/-- The three responses (R156). -/
inductive ResponseCode where
  | complete
  | retry
  | fault
  deriving DecidableEq, Repr

/-- The response given to the last access taken: to which master, the code, and for a read the four lanes as the
part drove them (R156, R157). A write drives no lanes. -/
structure Response where
  master : Master
  code   : ResponseCode
  lanes  : Option Word
  deriving DecidableEq, Repr

/-- The part stops with a fault on no command: a bus FAULT is a response, held in `State.response`. Safe: nothing is
left unmodelled by a stop. -/
inductive Fault where
  deriving DecidableEq, Repr

/-- Reasons the model gives no meaning. -/
inductive Refusal where
  /-- Raised by the dispatcher alone, for a command with no meaning in this model; no command is left so. Safe. -/
  | notModelled (mnemonic : String)
  deriving DecidableEq, Repr

end Sys2Proof.Machine

namespace Sys2Proof.Machine

/-- The state of the part and the queue of commands waiting for it. `refclkPeriods`, `tickDivisor`, `response` and
`pending` are the model's own (notes/assumptions/3, 5, 2). -/
structure State where
  phase          : Phase
  response       : Option Response
  divisor        : Nat
  tickDivisor    : Nat
  refclkPeriods  : Nat
  quotas         : PerMaster Nat
  claimWindow    : Nat
  resWindow      : Nat
  entries        : List Entry
  waiting        : List Master
  reservations   : PerMaster (Option Reservation)
  apertures      : Vector Aperture 16
  branches       : PerBranch BranchUnit
  commandRefused : Bool
  records        : List ExcRecord
  recordCounter  : BitVec 8
  overrun        : Bool
  quiescedFlags  : PerBranch Bool
  enables        : Enables
  pending        : List Instr
  deriving DecidableEq, Repr

/-- The part after a pin reset whose initialisation has ended: the port in RUN, every block at its pin-reset values
(R24, R46, R80, R95, R120, R134, R146, R155, R159, R160), no command waiting. -/
def State.reset : State :=
  { phase := .run
    response := none
    divisor := 25
    tickDivisor := 25
    refclkPeriods := 0
    quotas := ⟨4, 4, 4, 4⟩
    claimWindow := 2048
    resWindow := 64
    entries := []
    waiting := []
    reservations := ⟨none, none, none, none⟩
    apertures := Vector.replicate 16 apertureReset
    branches := ⟨branchReset, branchReset, branchReset, branchReset⟩
    commandRefused := false
    records := []
    recordCounter := 0
    overrun := false
    quiescedFlags := ⟨false, false, false, false⟩
    enables := enablesReset
    pending := [] }

end Sys2Proof.Machine
end

