-- ==== Sys2Proof/Machine/Operands.lean ====
section
/-! DEFINITION. How operands are spelled in bits and bytes: fields of a register word, widths, byte lanes, line
rates, and the command and reply frames with their check (chapters 6 and 10). -/

namespace Sys2Proof.Machine

/-! ## Fields of a word -/

/-- The value of the `len`-bit field of `w` whose lowest bit is `lo`. -/
def fieldOf (w : Word) (lo len : Nat) : Nat := (w.toNat >>> lo) % 2 ^ len

/-- Bit `n` of `w`. -/
def flagOf (w : Word) (n : Nat) : Bool := w.getLsbD n

/-- A word that holds `v` in the `len`-bit field whose lowest bit is `lo`, zero elsewhere. -/
def putField (lo len v : Nat) : Word := BitVec.ofNat 32 ((v % 2 ^ len) <<< lo)

/-- A word that holds `v` in bit `n`, zero elsewhere. -/
def putFlag (n : Nat) (v : Bool) : Word := putField n 1 v.toNat

/-- A word with all the given fields; the fields of one layout do not overlap. -/
def joinFields (fs : List Word) : Word := fs.foldl (· ||| ·) 0

/-! ## Codes -/

/-- Branch codes 0–3 for A–D (section 10.8). -/
def branchCode : Branch → Nat
  | .a => 0
  | .b => 1
  | .c => 2
  | .d => 3

def branchOfCode (n : Nat) : Branch :=
  match n % 4 with
  | 0 => .a
  | 1 => .b
  | 2 => .c
  | _ => .d

/-- The four branches. -/
def allBranches : List Branch := [.a, .b, .c, .d]

/-- The twelve slots, ascending. -/
def allSlots : List Slot := [0, 1, 2, 3, 4, 5, 6, 7, 8, 9, 10, 11]

/-- Bytes of a width (R158). -/
def Width.bytes : Width → Nat
  | .w1 => 1
  | .w2 => 2
  | .w4 => 4

/-- Width codes of R158, as the pins carry them and the views show them. -/
def widthCode : Width → Nat
  | .w1 => 0
  | .w2 => 1
  | .w4 => 2

/-- The width a code names; code 11 names none (R158). -/
def widthOf (code : BitVec 2) : Option Width :=
  if code = 0 then some .w1 else if code = 1 then some .w2 else if code = 2 then some .w4 else none

/-- The name of an outcome, which leaves a denial's reason code out (R38). -/
def outcomeName : Outcome → OutcomeName
  | .ok => .ok
  | .nodeDenied _ => .nodeDenied
  | .busyLimit => .busyLimit
  | .noReply => .noReply
  | .nodeOffline => .nodeOffline
  | .branchReset => .branchReset

/-- Outcome codes of the slot view and the record head view; 0 is absence (section 10.8). -/
def outcomeCode : OutcomeName → Nat
  | .ok => 1
  | .nodeDenied => 2
  | .busyLimit => 3
  | .noReply => 4
  | .nodeOffline => 5
  | .branchReset => 6

/-- Bit rate codes (section 10.8). -/
def bitRateCode : BitRate → Nat
  | .k125 => 0
  | .k250 => 1
  | .k500 => 2
  | .k1000 => 3
  | .k2000 => 4

/-- The rate stored for a written code; codes 5–7 are stored as 2000 kbit/s (R98, R163). -/
def bitRateOf (code : Nat) : BitRate :=
  match code with
  | 0 => .k125
  | 1 => .k250
  | 2 => .k500
  | 3 => .k1000
  | _ => .k2000

/-- The kbit/s of a rate setting (R98). -/
def BitRate.kbps : BitRate → Nat
  | .k125 => 125
  | .k250 => 250
  | .k500 => 500
  | .k1000 => 1000
  | .k2000 => 2000

/-- Two line rates are the same rate when kbps over divisor agree (R159). -/
def sameRate (r q : LineRate) : Bool := r.kbps * q.divisor = q.kbps * r.divisor

/-! ## Byte lanes (R157) -/

/-- The lanes word that carries `bytes` from lane `lane` upward, every other lane zero. -/
def onLanes (lane : Nat) : List Byte → Word
  | [] => 0
  | b :: bs => (b.setWidth 32 <<< (8 * (lane % 4))) ||| onLanes (lane + 1) bs

/-- The `n` bytes carried on the lanes from `lane` upward. -/
def offLanes (lane : Nat) (w : Word) : Nat → List Byte
  | 0 => []
  | n + 1 => (w >>> (8 * (lane % 4))).setWidth 8 :: offLanes (lane + 1) w n

/-- The data of an access of width `w`: the bytes of the lanes it occupies for a write, none for a read. -/
def accessData (a : Access) (w : Width) : List Byte :=
  match a.kind with
  | .read => []
  | .write => offLanes a.addr.toNat a.lanes w.bytes

/-- The address rounded down to its aligned 4-byte word (R27, R51). -/
def wordAddr (addr : HostAddr) : Nat := addr.toNat / 4 * 4

/-! ## The check (R102) -/

/-- One bit of the frame shifted into the check register. -/
def checkBit (c : BitVec 16) (bit : Bool) : BitVec 16 :=
  if c.msb = bit then c <<< 1 else (c <<< 1) ^^^ Config.checkPoly

/-- The bits of a byte in the order they are sent, most significant first (R167). -/
def bitsOf (b : Byte) : List Bool :=
  [b.getLsbD 7, b.getLsbD 6, b.getLsbD 5, b.getLsbD 4, b.getLsbD 3, b.getLsbD 2, b.getLsbD 1, b.getLsbD 0]

/-- The check over a list of bytes, from all ones (R102). -/
def checkOf (bytes : List Byte) : BitVec 16 :=
  bytes.foldl (fun c b => (bitsOf b).foldl checkBit c) Config.checkStart

/-- The check as the two bytes that end a frame, the more significant first (R167). -/
def checkBytes (bytes : List Byte) : List Byte :=
  [(checkOf bytes >>> 8).setWidth 8, (checkOf bytes).setWidth 8]

/-! ## Command frames (R100, R168) -/

/-- Operation codes 01 READ, 10 WRITE, 11 PROBE (section 10.8). -/
def opCode : Op → Nat
  | .read => 1
  | .write => 2
  | .probe => 3

/-- The bytes of a transaction's command frame before its check (R168). -/
def commandBody (tx : Txn) : List Byte :=
  [BitVec.ofNat 8 (tx.node.val * 8 + opCode tx.op * 2 + tx.parity.toNat),
   (tx.regAddr >>> 8).setWidth 8,
   tx.regAddr.setWidth 8,
   BitVec.ofNat 8 tx.width.bytes] ++ tx.data

/-- The command frame of a transaction: every send of it sends these bytes (R100, R168). -/
def commandFrame (tx : Txn) : List Byte := commandBody tx ++ checkBytes (commandBody tx)

/-! ## Reply frames (R101, R105, R169) -/

/-- A valid reply, by status. -/
inductive Reply where
  | data (bytes : List Byte)
  | done
  | hold
  | deny (reason : BitVec 4)
  | present (nodeType : Byte) (lastParity : Bool)
  deriving DecidableEq, Repr

/-- Status codes of byte 1, bits 7–5 (section 10.8). -/
def statusCode (b1 : Byte) : Nat := b1.toNat / 32

/-- The expected length of a reply by its status code, for the current transaction (R169). -/
def expectedLength (b1 : Byte) (tx : Txn) : Nat :=
  match statusCode b1 with
  | 1 => 4 + tx.width.bytes
  | 5 => 6
  | _ => 4

/-- The low four bits of byte 1. -/
def reasonOf (b1 : Byte) : BitVec 4 := b1.setWidth 4

/-- The reply of a frame whose length, check, node, parity echo and zero bits are right: its status must be used,
its reason must be non-zero for DENY alone, and the status must fit the operation (R105, R169). `rest` is what
follows byte 1, without the check. -/
def replyOfStatus (tx : Txn) (b1 : Byte) (rest : List Byte) : Option Reply :=
  match statusCode b1, tx.op with
  | 1, .read => if reasonOf b1 = 0 then some (.data rest) else none
  | 2, .write => if reasonOf b1 = 0 then some .done else none
  | 3, .read => if reasonOf b1 = 0 then some .hold else none
  | 3, .write => if reasonOf b1 = 0 then some .hold else none
  | 4, .read => if reasonOf b1 = 0 then none else some (.deny (reasonOf b1))
  | 4, .write => if reasonOf b1 = 0 then none else some (.deny (reasonOf b1))
  | 5, .probe =>
    match rest with
    | [nodeType, last] => if reasonOf b1 = 0 ∧ last.toNat < 2 then some (.present nodeType (last.getLsbD 0)) else none
    | _ => none
  | _, _ => none

/-- The judgement of a frame that has arrived for transaction `tx`: the reply it is, or none when it is invalid
(R105, R169). -/
def judgeReply (tx : Txn) (bytes : List Byte) (endMark : Bool) : Option Reply :=
  match bytes with
  | b0 :: b1 :: rest =>
    if endMark = false ∨ bytes.length ≠ expectedLength b1 tx then none
    else if bytes.drop (bytes.length - 2) ≠ checkBytes (bytes.take (bytes.length - 2)) then none
    else if b0.toNat / 8 ≠ tx.node.val ∨ b0.getLsbD 2 ≠ tx.parity ∨ b0.toNat % 4 ≠ 0 ∨ b1.getLsbD 4 = true then none
    else replyOfStatus tx b1 (rest.take (rest.length - 2))
  | _ => none

end Sys2Proof.Machine
end

