-- ==== Sys2Proof/Machine/Flags.lean ====
section
/-! DEFINITION. The attention events, ATTN, the sticky flags, and the levels of the output pins that follow from
the state (chapters 8, 9 and 10). -/

namespace Sys2Proof.Machine

/-- RECORD_PENDING is true while the Record Queue holds a record (section 9.5). -/
def recordPending (s : State) : Bool := !s.records.isEmpty

/-- ATTN is asserted while an attention event is both true and enabled (R154). -/
def attn (s : State) : Bool :=
  (recordPending s && s.enables.recordPending) || (s.overrun && s.enables.overrun) ||
    allBranches.any (fun x => s.quiescedFlags.get x && s.enables.quiesced.get x)

/-- The ATTN pin's level: pulled low while ATTN is asserted, released otherwise (section 10.1). -/
def attnPinLow (s : State) : Bool := attn s

/-- BRST_x is asserted exactly while branch x is HELD (R143). -/
def brst (s : State) (x : Branch) : Bool := (s.branches.get x).ctrl = .held

/-- The BRST_x pin is driven low while the line is asserted (section 10.1). -/
def brstPinLow (s : State) (x : Branch) : Bool := brst s x

/-- The part drives the line of branch x exactly while its engine is in TRANSMIT (R96). -/
def lineDriven (s : State) (x : Branch) : Bool :=
  match (s.branches.get x).engine with
  | .transmit _ _ => true
  | _ => false

/-- The frame being sent on branch x and its rate, if the engine is in TRANSMIT (R100, R103). -/
def lineFrame (s : State) (x : Branch) : Option (List Byte × LineRate) :=
  match (s.branches.get x).engine with
  | .transmit tx rate => some (commandFrame tx, rate)
  | _ => none

/-- The response pins HRSP1–HRSP0 in the event of the last access (R156). -/
def responsePins (s : State) : Nat :=
  match s.response with
  | none => 0
  | some r =>
    match r.code with
    | .complete => 1
    | .retry => 2
    | .fault => 3

/-- QUIESCED_x is set by a drain completion and stays set (R153). -/
def setQuiesced (x : Branch) (s : State) : State := { s with quiescedFlags := s.quiescedFlags.set x true }

/-- A write of the attention status clears the overrun flag by bit 1 and each QUIESCED_x by bit 4 to 7, and leaves
every flag written with zero as it stands; bit 0 and bit 31 cannot be written (R150, R153, section 10.8). -/
def writeAttentionStatus (w : Word) (s : State) : State :=
  { s with
    overrun := s.overrun && !flagOf w 1
    quiescedFlags := ⟨s.quiescedFlags.a && !flagOf w 4, s.quiescedFlags.b && !flagOf w 5,
                      s.quiescedFlags.c && !flagOf w 6, s.quiescedFlags.d && !flagOf w 7⟩ }

/-- A write of the attention enables sets all six (R154, R162). -/
def writeEnables (w : Word) (s : State) : State :=
  { s with enables :=
      { recordPending := flagOf w 0, overrun := flagOf w 1,
        quiesced := ⟨flagOf w 4, flagOf w 5, flagOf w 6, flagOf w 7⟩ } }

/-- The word the attention enables read as. -/
def readEnables (s : State) : Word :=
  joinFields [putFlag 0 s.enables.recordPending, putFlag 1 s.enables.overrun, putFlag 4 s.enables.quiesced.a,
    putFlag 5 s.enables.quiesced.b, putFlag 6 s.enables.quiesced.c, putFlag 7 s.enables.quiesced.d]

/-- The word the attention status reads as: all six events, enabled or not, and the level of ATTN (R153). -/
def readAttentionStatus (s : State) : Word :=
  joinFields [putFlag 0 (recordPending s), putFlag 1 s.overrun, putFlag 4 s.quiescedFlags.a,
    putFlag 5 s.quiescedFlags.b, putFlag 6 s.quiescedFlags.c, putFlag 7 s.quiescedFlags.d, putFlag 31 (attn s)]

/-- A refused command sets the command-refused flag and changes nothing else (R133). -/
def refuseCommand (s : State) : State := { s with commandRefused := true }

/-- A write of one to the command-refused flag clears it; a zero leaves it (R133). -/
def writeCommandRefused (w : Word) (s : State) : State :=
  { s with commandRefused := s.commandRefused && !flagOf w 0 }

end Sys2Proof.Machine
end

