-- ==== Sys2Proof/Machine/Ops.lean ====
section
/-! DEFINITION. The named operations the commands share, block by block: the port's response, the Record Queue, the
slots and reservations, the Posted Queue, the Node Table, a branch's drain and its entry into HELD. -/

namespace Sys2Proof.Machine

/-! ## Access to a branch's column -/

/-- The column of branch `x`. -/
def unitOf (s : State) (x : Branch) : BranchUnit := s.branches.get x

/-- `s` with the column of branch `x` changed by `f`. -/
def onUnit (x : Branch) (f : BranchUnit → BranchUnit) (s : State) : State :=
  { s with branches := s.branches.set x (f (s.branches.get x)) }

/-- `s` with every live entry changed by `f`; the acceptance order is kept (R4). -/
def onEntries (f : Entry → Entry) (s : State) : State := { s with entries := s.entries.map f }

/-! ## The host port's response (R156) -/

/-- The one response to the access of master `m`. -/
def respond (m : Master) (code : ResponseCode) (lanes : Option Word) (s : State) : State :=
  { s with response := some { master := m, code := code, lanes := lanes } }

/-- The lanes under RETRY or FAULT: driven with zero for a read (R156); not driven for a write. -/
def zeroLanes : Kind → Option Word
  | .read => some 0
  | .write => none

/-- RETRY. -/
def respondRetry (a : Access) (s : State) : State := respond a.master .retry (zeroLanes a.kind) s

/-- FAULT. -/
def respondFault (a : Access) (s : State) : State := respond a.master .fault (zeroLanes a.kind) s

/-- COMPLETE of a read with the given bytes, on the lanes they occupy (R157). -/
def respondData (a : Access) (bytes : List Byte) (s : State) : State :=
  respond a.master .complete (some (onLanes a.addr.toNat bytes)) s

/-- COMPLETE of a write. -/
def respondTaken (a : Access) (s : State) : State := respond a.master .complete none s

/-- Answered as failed (Conventions, Responses): FAULT in REPORT mode; in ABSORB mode COMPLETE, every byte of the
access's width all ones for a read. -/
def respondFailed (a : Access) (w : Width) (mode : ErrorMode) (s : State) : State :=
  match mode, a.kind with
  | .report, _ => respondFault a s
  | .absorb, .read => respondData a (List.replicate w.bytes 0xFF) s
  | .absorb, .write => respondTaken a s

/-! ## The Record Queue (R149, R150, R152) -/

/-- A block offers a record: taken at the tail with the counter's number while there is room, else discarded with the
overrun flag set. -/
def offer (body : RecordBody) (s : State) : State :=
  if s.records.length < Config.recordDepth then
    { s with records := s.records ++ [{ seq := s.recordCounter, body := body }], recordCounter := s.recordCounter + 1 }
  else
    { s with overrun := true }

/-- POP removes the head record, if any (R152). -/
def popRecord (s : State) : State := { s with records := s.records.tail }

/-- An access refused with a record: FAULT, and an ACCESS_FAULT record offered with the cause, the master and the
address as presented (R44, R45, R50, R14). -/
def accessFault (a : Access) (cause : FaultCause) (s : State) : State :=
  respondFault a (offer (.accessFault cause a.master a.addr) s)

/-! ## Slots, the waiting list and reservations (chapter 1) -/

/-- The live entry in slot `k`, if it is not FREE. -/
def entryAt (s : State) (k : Slot) : Option Entry := s.entries.find? (fun e => e.slot = k)

/-- A slot is FREE when no live entry holds it (R1). -/
def slotFree (s : State) (k : Slot) : Bool := !s.entries.any (fun e => e.slot = k)

/-- The four masters. -/
def allMasters : List Master := [0, 1, 2, 3]

/-- A reservation record names slot `k` (R1). -/
def slotReserved (s : State) (k : Slot) : Bool :=
  allMasters.any (fun m => (s.reservations.get m).any (fun r => r.slot = k))

/-- An open slot: FREE and named by no reservation record (R1). -/
def slotOpen (s : State) (k : Slot) : Bool := slotFree s k && !slotReserved s k

/-- The lowest-numbered open slot (R15). -/
def lowestOpen (s : State) : Option Slot := allSlots.find? (fun k => slotOpen s k)

/-- A master's live count: its entries in every live state (R13). -/
def liveCount (s : State) (m : Master) : Nat := s.entries.countP (fun e => e.master = m)

/-- A FREE slot is handed on: to the head of the waiting list, who leaves the list and gets a reservation with a full
window, or it becomes open (R12, R18, R20). -/
def handOver (k : Slot) (s : State) : State :=
  match s.waiting with
  | [] => s
  | m :: rest =>
    { s with
      waiting := rest
      reservations := s.reservations.set m (some { slot := k, remaining := s.resWindow * Config.reservationUnit }) }

/-- Slot `k` becomes FREE: its entry ceases to exist and the slot is handed on (R12). -/
def freeSlot (k : Slot) (s : State) : State :=
  handOver k { s with entries := s.entries.filter (fun e => e.slot ≠ k) }

/-- The slots whose entries meet `p`, in ascending slot number (R12). -/
def slotsWhere (p : Entry → Bool) (s : State) : List Slot :=
  allSlots.filter (fun k => s.entries.any (fun e => e.slot = k && p e))

/-- Every slot whose entry meets `p` becomes FREE, one at a time in ascending slot number (R12). -/
def freeSlotsWhere (p : Entry → Bool) (s : State) : State :=
  (slotsWhere p s).foldl (fun t k => freeSlot k t) s

/-- The reservation of master `m` ends and its slot is handed on (R20, R22). -/
def endReservation (m : Master) (s : State) : State :=
  match s.reservations.get m with
  | none => s
  | some r => handOver r.slot { s with reservations := s.reservations.set m none }

/-- Time remaining of a claim timer started now: none while the claim window is 0 (R37). -/
def claimStart (s : State) : Option Nat :=
  if s.claimWindow = 0 then none else some (s.claimWindow * Config.claimUnit)

/-- An entry made READY with an outcome and read data, its claim timer started from `claim` (R7, R9, R10, R37). -/
def makeReady (claim : Option Nat) (o : Outcome) (d : Option (List Byte)) (e : Entry) : Entry :=
  { e with state := .ready o d claim }

def isPending (e : Entry) : Bool :=
  match e.state with
  | .pending => true
  | _ => false

def isIssued (e : Entry) : Bool :=
  match e.state with
  | .issued _ => true
  | _ => false

def isAbandoned (e : Entry) : Bool :=
  match e.state with
  | .issued ab => ab
  | _ => false

def isReady (e : Entry) : Bool :=
  match e.state with
  | .ready _ _ _ => true
  | _ => false

/-! ## The Posted Queue (chapter 4) -/

/-- The posted-ahead count of a PENDING entry of branch `x` falls by `n`, not below 0 (R70, R78). -/
def lowerAhead (x : Branch) (n : Nat) (e : Entry) : Entry :=
  if isPending e && e.branch = x then { e with postedAhead := e.postedAhead - n } else e

/-- A departure: the head record leaves, the next is not in flight, and the posted-ahead counts of the branch's
PENDING entries fall by one (R69, R70). -/
def departHead (x : Branch) (s : State) : State :=
  onEntries (lowerAhead x 1) (onUnit x (fun u => { u with queue := u.queue.tail, headInFlight := false }) s)

/-- The head record's counts take a posted transaction's counts (R68, R97). -/
def copyCounts (tx : Txn) (u : BranchUnit) : BranchUnit :=
  match tx.source, u.queue with
  | .posted, r :: rest => { u with queue := { r with holdsUsed := tx.holdsUsed, resendsUsed := tx.resendsUsed } :: rest }
  | _, _ => u

/-! ## The Node Table (chapter 7) -/

/-- The place of node `n` in the table; node 0 has no record (R121). -/
def nodePlace (n : Node) : Fin 31 := ⟨n.val - 1, by omega⟩

/-- The record of node `n`, 1–31. -/
def nodeOf (u : BranchUnit) (n : Node) : NodeRecord := u.nodes[(nodePlace n).val]

/-- `u` with the record of node `n` changed by `f`; nothing for node 0, which has none (R121). -/
def onNode (n : Node) (f : NodeRecord → NodeRecord) (u : BranchUnit) : BranchUnit :=
  if n = 0 then u else { u with nodes := u.nodes.set (nodePlace n).val (f (nodeOf u n)) (nodePlace n).isLt }

/-- The node is 1–31 and its record says OFFLINE (R54). -/
def nodeIsOffline (u : BranchUnit) (n : Node) : Bool := n ≠ 0 && (nodeOf u n).state = .offline

/-- A posted write thrown away for an OFFLINE node (R55, R76, R128). -/
def countDropped (r : NodeRecord) : NodeRecord := { r with dropped := min Config.droppedMax (r.dropped + 1) }

/-- The opposite parity, as a known next write parity (R112). -/
def opposite (p : Bool) : Parity := .known !p

/-! ## The probe set (R129) -/

/-- `n` joins an ascending set it is not in. -/
def probeJoin (n : Node) : List Node → List Node
  | [] => [n]
  | k :: rest => if n < k then n :: k :: rest else if n = k then k :: rest else k :: probeJoin n rest

/-- `n` leaves the set. -/
def probeLeave (n : Node) (ps : List Node) : List Node := ps.filter (fun k => k ≠ n)

/-! ## Branch control (chapter 8) -/

/-- The drained condition (R138). -/
def drained (s : State) (x : Branch) : Bool :=
  let u := unitOf s x
  u.queue.isEmpty && !s.entries.any (fun e => e.branch = x && (isPending e || isIssued e)) && u.probeSet.isEmpty &&
    u.park.isNone && u.engine = .idle

/-- A drain completion, if branch `x` is DRAINING and now drained: QUIESCED, with QUIESCED_x set, in the event that made
the last condition true (R139). -/
def completeDrain (x : Branch) (s : State) : State :=
  if (unitOf s x).ctrl = .draining ∧ drained s x = true then
    setQuiesced x (onUnit x (fun u => { u with ctrl := .quiesced }) s)
  else s

/-- A reception in progress is discarded when the engine leaves AWAIT (R169). -/
def dropReception (u : BranchUnit) : BranchUnit :=
  match u.receiver with
  | .receiving _ => { u with receiver := .clear }
  | _ => u

/-- A branch's own column on entry into HELD: queue flushed, engine OFF, park slot empty, node records reset, probe set
emptied, both scheduler counts 0; the settings are kept (R78, R95, R118, R134, R142). -/
def heldUnit (u : BranchUnit) : BranchUnit :=
  { dropReception u with
    ctrl := .held, queue := [], headInFlight := false, postedRun := 0, probeDeferral := 0, engine := .off, park := none,
    nodes := Vector.replicate 31 nodeReset, probeSet := [] }

/-- POSTED_FLUSHED is offered when the flush removed any record (R78). -/
def offerFlushed (x : Branch) (n : Nat) (s : State) : State :=
  if n = 0 then s else offer (.postedFlushed x n) s

/-- What the HELD entry of branch `x` makes of a live entry: PENDING, and ISSUED not marked abandoned, become READY with
BRANCH_RESET (R10); the flush has lowered the posted-ahead counts (R78). -/
def heldEntry (x : Branch) (flushed : Nat) (claim : Option Nat) (e : Entry) : Entry :=
  if e.branch = x && (isPending e || (isIssued e && !isAbandoned e)) then
    makeReady claim .branchReset none (lowerAhead x flushed e)
  else e

/-- An entry of branch `x` that the HELD entry frees: ISSUED and marked abandoned (R10). -/
def freedByHeld (x : Branch) (e : Entry) : Bool := e.branch = x && isAbandoned e

/-- Branch `x` enters HELD (R142): each neighbour does its part in this one event. -/
def enterHeld (x : Branch) (s : State) : State :=
  let n := (unitOf s x).queue.length
  freeSlotsWhere (freedByHeld x)
    (onEntries (heldEntry x n (claimStart s)) (onUnit x heldUnit (offerFlushed x n s)))

end Sys2Proof.Machine
end

