-- ==== Sys2Proof/Machine/Resets.lean ====
section
/-! DEFINITION. Pin reset and chip reset, their ends, and RST_N (R160, R161). The commands that wait in the queue are outside
the part and stay. -/

namespace Sys2Proof.Machine

/-- RST_N goes low: every block at its pin-reset values, the port in RESET (R160). -/
def pinResetState (s : State) : State := { State.reset with phase := .pinLow, pending := s.pending }

/-- The chip reset command: every block at its chip-reset values, the port in RESET; kept are the divisor, the records in
their order, the record sequence counter and the overrun flag (R155, R161), with the tick now running. -/
def chipResetState (s : State) : State :=
  { State.reset with
    phase := .chipReset
    divisor := s.divisor
    tickDivisor := s.tickDivisor
    refclkPeriods := s.refclkPeriods
    records := s.records
    recordCounter := s.recordCounter
    overrun := s.overrun
    pending := s.pending }

/-- PIN_RESET (R160). -/
def execPinReset (s : State) : Host.Outcome State Fault Refusal := .next (pinResetState s)

/-- RST_N_RELEASE: RST_N goes high and the internal initialisation begins; with RST_N high already, nothing (R160). -/
def execRstNRelease (s : State) : Host.Outcome State Fault Refusal :=
  .next (if s.phase = .pinLow then { s with phase := .initialising } else s)

/-- INITIALISATION_END: the port enters RUN; with no initialisation in progress, nothing (R160). -/
def execInitialisationEnd (s : State) : Host.Outcome State Fault Refusal :=
  .next (if s.phase = .initialising then { s with phase := .run } else s)

/-- CHIP_RESET_END: the port enters RUN; with no chip reset in progress, nothing (R161). -/
def execChipResetEnd (s : State) : Host.Outcome State Fault Refusal :=
  .next (if s.phase = .chipReset then { s with phase := .run } else s)

end Sys2Proof.Machine
end

