-- ==== Sys2Proof/Machine/Registers.lean ====
section
/-! DEFINITION. The register window: its map, what each register reads as, and what a write to it does (chapter 10; the
effects of the commands by their own chapters). -/

namespace Sys2Proof.Machine

/-! ## The map (section 10.8) -/

/-- The registers of the window. `recordView`, `branchView` and `slotView` carry the word's index in its view; branch view
words count from +0x10. -/
inductive Reg where
  | identification
  | chipReset
  | divisor
  | quotas
  | claimWindow
  | resWindow
  | abandon
  | commandRefused
  | recordView (i : Fin 4)
  | recordCounter
  | attentionStatus
  | attentionEnables
  | probe
  | revive
  | apertureWord0 (n : Fin 16)
  | apertureWord1 (n : Fin 16)
  | branchCommand (x : Branch)
  | branchStatus (x : Branch)
  | branchRates (x : Branch)
  | branchLink (x : Branch)
  | branchView (x : Branch) (i : Fin 9)
  | slotView (k : Slot) (i : Fin 6)
  | waitingList
  | reservation (m : Master)
  | probeSet (x : Branch)
  | nodeWord (x : Branch) (n : Node)
  deriving DecidableEq, Repr

/-- The registers below 0x100. -/
def fixedReg (o : Nat) : Option Reg :=
  match o with
  | 0x000 => some .identification
  | 0x004 => some .chipReset
  | 0x008 => some .divisor
  | 0x010 => some .quotas
  | 0x014 => some .claimWindow
  | 0x018 => some .resWindow
  | 0x01C => some .abandon
  | 0x020 => some .commandRefused
  | 0x030 => some (.recordView 0)
  | 0x034 => some (.recordView 1)
  | 0x038 => some (.recordView 2)
  | 0x03C => some (.recordView 3)
  | 0x040 => some .recordCounter
  | 0x048 => some .attentionStatus
  | 0x04C => some .attentionEnables
  | 0x050 => some .probe
  | 0x054 => some .revive
  | _ => none

/-- The word at place `w` (offset 4w) of the block of branch `x`. -/
def branchReg (x : Branch) (w : Nat) : Option Reg :=
  match w with
  | 0 => some (.branchCommand x)
  | 1 => some (.branchStatus x)
  | 2 => some (.branchRates x)
  | 3 => some (.branchLink x)
  | n + 4 => if h : n < 9 then some (.branchView x ⟨n, h⟩) else none

/-- The register at a byte offset of the window, if the map lists one there. -/
def regAt (o : Nat) : Option Reg :=
  let w := o / 4
  if o % 4 ≠ 0 then none
  else if o < 0x100 then fixedReg o
  else if o < 0x180 then
    let n : Fin 16 := ⟨(o - 0x100) / 8 % 16, Nat.mod_lt _ (by decide)⟩
    some (if w % 2 = 0 then .apertureWord0 n else .apertureWord1 n)
  else if o < 0x200 then none
  else if o < 0x300 then branchReg (branchOfCode ((o - 0x200) / 0x40)) (w % 16)
  else if o < 0x400 then none
  else if o < 0x580 then
    if h : (o - 0x400) / 0x20 < 12 ∧ w % 8 < 6 then some (.slotView ⟨(o - 0x400) / 0x20, h.1⟩ ⟨w % 8, h.2⟩) else none
  else if o = 0x580 then some .waitingList
  else if o < 0x590 then none
  else if o < 0x5A0 then some (.reservation ⟨(o - 0x590) / 4 % 4, Nat.mod_lt _ (by decide)⟩)
  else if o < 0x800 then none
  else if h : (o - 0x800) / 0x100 < 4 ∧ w % 64 < 32 then
    let x := branchOfCode ((o - 0x800) / 0x100)
    if w % 64 = 0 then some (.probeSet x) else some (.nodeWord x ⟨w % 64, h.2⟩)
  else none

/-- The registers the map marks R. -/
def readOnly : Reg → Bool
  | .identification => true
  | .recordView _ => true
  | .branchStatus _ => true
  | .branchView _ _ => true
  | .slotView _ _ => true
  | .waitingList => true
  | .reservation _ => true
  | .probeSet _ => true
  | .nodeWord _ _ => true
  | _ => false

/-! ## Settings: codes as stored (R163) -/

/-- A field with codes below `lo` or above `hi` that name no value (R163). -/
def clampField (lo hi v : Nat) : Nat := max lo (min hi v)

/-- A quota code; 13–15 are stored as 12 (R13, R163). -/
def quotaOf (v : Nat) : Nat := min Config.quotaMax v

def boolClass : RouteClass → Bool
  | .posted => false
  | .deferred => true

def boolMode : ErrorMode → Bool
  | .report => false
  | .absorb => true

/-- Aperture word 0 written: all its fields at once (R47, R162). -/
def withWord0 (w : Word) (a : Aperture) : Aperture :=
  { a with
    enable := flagOf w 0
    cls := if flagOf w 1 then .deferred else .posted
    readOk := flagOf w 2
    writeOk := flagOf w 3
    errorMode := if flagOf w 4 then .absorb else .report
    wordFetch := flagOf w 5
    basePage := BitVec.ofNat 14 (fieldOf w 8 14)
    sizeCode := min 8 (fieldOf w 24 4) }

/-- Aperture word 1 written: all its fields at once (R47, R162). -/
def withWord1 (w : Word) (a : Aperture) : Aperture :=
  { a with
    regBase := BitVec.ofNat 16 (fieldOf w 0 16)
    node := ⟨fieldOf w 16 5, Nat.mod_lt _ (by decide)⟩
    branch := branchOfCode (fieldOf w 24 2) }

def readWord0 (a : Aperture) : Word :=
  joinFields [putFlag 0 a.enable, putFlag 1 (boolClass a.cls), putFlag 2 a.readOk, putFlag 3 a.writeOk,
    putFlag 4 (boolMode a.errorMode), putFlag 5 a.wordFetch, putField 8 14 a.basePage.toNat, putField 24 4 a.sizeCode]

def readWord1 (a : Aperture) : Word :=
  joinFields [putField 0 16 a.regBase.toNat, putField 16 5 a.node.val, putField 24 2 (branchCode a.branch)]

/-- The settings word +0x08 written (R90, R98, R122, R163). -/
def withRates (w : Word) (t : BranchSettings) : BranchSettings :=
  { t with
    bitRate := bitRateOf (fieldOf w 0 3)
    postedAllowance := max 1 (fieldOf w 8 4)
    offlineThreshold := max 1 (fieldOf w 16 4) }

/-- The settings word +0x0C written (R99, R163). -/
def withLink (w : Word) (t : BranchSettings) : BranchSettings :=
  { t with
    replyWindow := max 1 (fieldOf w 0 8)
    holdDelay := max 1 (fieldOf w 8 8)
    resendLimit := fieldOf w 16 3
    holdLimit := max 1 (fieldOf w 20 10) }

def readRates (t : BranchSettings) : Word :=
  joinFields [putField 0 3 (bitRateCode t.bitRate), putField 8 4 t.postedAllowance, putField 16 4 t.offlineThreshold]

def readLink (t : BranchSettings) : Word :=
  joinFields [putField 0 8 t.replyWindow, putField 8 8 t.holdDelay, putField 16 3 t.resendLimit, putField 20 10 t.holdLimit]

/-! ## Effects of writes, register by register -/

/-- The timebase divisor, 4–50 (R159, R163). -/
def writeDivisor (w : Word) (s : State) : State := { s with divisor := clampField 4 50 (fieldOf w 0 6) }

/-- The four quotas at once (R13, R162). -/
def writeQuotas (w : Word) (s : State) : State :=
  { s with quotas := ⟨quotaOf (fieldOf w 0 4), quotaOf (fieldOf w 8 4), quotaOf (fieldOf w 16 4), quotaOf (fieldOf w 24 4)⟩ }

/-- A READY entry with no running claim timer is given one of `n` microseconds (R36). -/
def giveTimer (n : Nat) (e : Entry) : Entry :=
  match e.state with
  | .ready o d none => { e with state := .ready o d (some n) }
  | _ => e

/-- The claim window setting. A non-zero write while the setting was 0 starts a full new timer for every READY entry that
has none; running timers are left (R36). -/
def writeClaimWindow (w : Word) (s : State) : State :=
  let v := fieldOf w 0 12
  let t := { s with claimWindow := v }
  if s.claimWindow = 0 ∧ v ≠ 0 then onEntries (giveTimer (v * Config.claimUnit)) t else t

/-- The reservation window setting. A write of 0 empties the waiting list; existing reservations run on (R21). -/
def writeResWindow (w : Word) (s : State) : State :=
  let v := fieldOf w 0 8
  { s with resWindow := v, waiting := if v = 0 then [] else s.waiting }

/-- Aperture `n` changed by `f` (R47). -/
def onAperture (n : Fin 16) (f : Aperture → Aperture) (s : State) : State :=
  { s with apertures := s.apertures.set n.val (f s.apertures[n.val]) n.isLt }

/-- The settings of branch `x` changed by `f`. -/
def onSettings (x : Branch) (f : BranchSettings → BranchSettings) (s : State) : State :=
  onUnit x (fun u => { u with settings := f u.settings }) s

/-- An ISSUED entry of master `m` marked abandoned (R22). -/
def markAbandoned (m : Master) (e : Entry) : Entry :=
  if e.master = m && isIssued e then { e with state := .issued true } else e

/-- READY and PENDING entries of master `m`, which ABANDON frees (R22). -/
def freedByAbandon (m : Master) (e : Entry) : Bool := e.master = m && (isReady e || isPending e)

/-- ABANDON naming master `m`, its five steps in order as one event; a drain that the freed entries held open completes in
it (R22, R139). -/
def abandonMaster (m : Master) (s : State) : State :=
  let s1 := { s with waiting := s.waiting.filter (fun k => k ≠ m) }
  let s2 := endReservation m s1
  let freed := (slotsWhere (freedByAbandon m) s2).length
  let s3 := freeSlotsWhere (freedByAbandon m) s2
  let marked := s3.entries.countP (fun e => e.master = m && isIssued e)
  let s4 := onEntries (markAbandoned m) s3
  let s5 := offer (.masterAbandoned m freed marked) s4
  allBranches.foldl (fun t x => completeDrain x t) s5

/-- PROBE (R130). -/
def probeNode (x : Branch) (n : Node) (s : State) : State :=
  if (unitOf s x).ctrl = .held ∨ n = 0 then refuseCommand s
  else onUnit x (fun u => { u with probeSet := probeJoin n u.probeSet }) s

/-- The record of a revived node (R131). -/
def recordRevived (r : NodeRecord) : NodeRecord :=
  { r with state := .unknown, failures := 0, parity := .unsure, dropped := 0 }

/-- REVIVE (R131). -/
def reviveNode (x : Branch) (n : Node) (s : State) : State :=
  if (unitOf s x).ctrl = .held ∨ n = 0 then refuseCommand s
  else onUnit x (onNode n recordRevived) s

/-- QUIESCE (R136, R137): drained at once, or DRAINING. -/
def quiesceBranch (x : Branch) (s : State) : State :=
  match (unitOf s x).ctrl with
  | .active => completeDrain x (onUnit x (fun u => { u with ctrl := .draining }) s)
  | .draining => s
  | .quiesced => s
  | .held => refuseCommand s

/-- RESUME (R136, R141). -/
def resumeBranch (x : Branch) (s : State) : State :=
  match (unitOf s x).ctrl with
  | .active => s
  | .draining => onUnit x (fun u => { u with ctrl := .active }) s
  | .quiesced => onUnit x (fun u => { u with ctrl := .active }) s
  | .held => refuseCommand s

/-- HOLD (R136, R142). -/
def holdBranch (x : Branch) (s : State) : State :=
  match (unitOf s x).ctrl with
  | .held => s
  | _ => enterHeld x s

/-- RELEASE (R136, R144). -/
def releaseBranch (x : Branch) (s : State) : State :=
  match (unitOf s x).ctrl with
  | .held => onUnit x (fun u => { u with ctrl := .quiesced, engine := .idle }) s
  | _ => refuseCommand s

/-- A command code written to the command field of branch `x`; a code that names none of the four is refused (R136). -/
def branchCommand (x : Branch) (code : Nat) (s : State) : State :=
  match code with
  | 1 => quiesceBranch x s
  | 2 => resumeBranch x s
  | 3 => holdBranch x s
  | 4 => releaseBranch x s
  | _ => refuseCommand s

/-- The branch field of a PROBE or REVIVE word, bits 9–8. -/
def wordBranch (w : Word) : Branch := branchOfCode (fieldOf w 8 2)

/-- The node field of a PROBE or REVIVE word, bits 4–0. -/
def wordNode (w : Word) : Node := ⟨fieldOf w 0 5, Nat.mod_lt _ (by decide)⟩

/-- The master field of an ABANDON word, bits 1–0. -/
def wordMaster (w : Word) : Master := ⟨fieldOf w 0 2, Nat.mod_lt _ (by decide)⟩

/-- What a width-4 write of `w` to a register does; none where the map marks the register R (R162). -/
def writeReg (r : Reg) (w : Word) (s : State) : Option State :=
  match r with
  | .chipReset => some (if flagOf w 0 then chipResetState s else s)
  | .divisor => some (writeDivisor w s)
  | .quotas => some (writeQuotas w s)
  | .claimWindow => some (writeClaimWindow w s)
  | .resWindow => some (writeResWindow w s)
  | .abandon => some (abandonMaster (wordMaster w) s)
  | .commandRefused => some (writeCommandRefused w s)
  | .recordCounter => some (if flagOf w 0 then popRecord s else s)
  | .attentionStatus => some (writeAttentionStatus w s)
  | .attentionEnables => some (writeEnables w s)
  | .probe => some (probeNode (wordBranch w) (wordNode w) s)
  | .revive => some (reviveNode (wordBranch w) (wordNode w) s)
  | .apertureWord0 n => some (onAperture n (withWord0 w) s)
  | .apertureWord1 n => some (onAperture n (withWord1 w) s)
  | .branchCommand x => some (branchCommand x (fieldOf w 0 4) s)
  | .branchRates x => some (onSettings x (withRates w) s)
  | .branchLink x => some (onSettings x (withLink w) s)
  | .identification => none
  | .recordView _ => none
  | .branchStatus _ => none
  | .branchView _ _ => none
  | .slotView _ _ => none
  | .waitingList => none
  | .reservation _ => none
  | .probeSet _ => none
  | .nodeWord _ _ => none

/-! ## The views (R151, R164, R165, R166) -/

def ctrlCode : BranchState → Nat
  | .active => 0
  | .draining => 1
  | .quiesced => 2
  | .held => 3

def kindBit : Kind → Bool
  | .read => false
  | .write => true

def sourceCode : Source → Nat
  | .posted => 0
  | .slot _ => 1
  | .probeSet => 2
  | .resync => 3

/-- The slot field of a transaction: the slot of a deferred one, else zero (R166). -/
def sourceSlot : Source → Nat
  | .slot k => k.val
  | _ => 0

def engineCode : Engine → Nat
  | .off => 0
  | .idle => 1
  | .transmit _ _ => 2
  | .await _ _ => 3
  | .backoff _ _ => 4

/-- The current transaction, if the engine has one (R96). -/
def currentTxn : Engine → Option Txn
  | .off => none
  | .idle => none
  | .transmit tx _ => some tx
  | .await tx _ => some tx
  | .backoff tx _ => some tx

/-- The current transaction's running timer, zero when none runs (R166). -/
def currentTimer : Engine → Nat
  | .await _ n => n
  | .backoff _ n => n
  | _ => 0

/-- The fetch base: the word's aligned address for a word-fetch READ, else the host address (R32, R167). -/
def fetchBase (e : Entry) : Nat :=
  if e.wordFetch && e.kind = .read then wordAddr e.hostAddr else e.hostAddr.toNat

def entryCode : EntryState → Nat
  | .pending => 1
  | .issued _ => 2
  | .ready _ _ _ => 3

def reasonCode : Outcome → Nat
  | .nodeDenied r => r.toNat
  | _ => 0

def isDenied : Outcome → Bool
  | .nodeDenied _ => true
  | _ => false

/-- The outcome, read data and claim timer a READY entry has. -/
def readyOutcome (e : Entry) : Option Outcome :=
  match e.state with
  | .ready o _ _ => some o
  | _ => none

def readyData (e : Entry) : Option (List Byte) :=
  match e.state with
  | .ready _ d _ => d
  | _ => none

def readyClaim (e : Entry) : Option Nat :=
  match e.state with
  | .ready _ _ c => c
  | _ => none

/-- The age rank of the entry in slot `k`: its position in the acceptance order, 0 for the oldest (R165). -/
def ageRank (s : State) (k : Slot) : Nat := s.entries.findIdx (fun e => e.slot = k)

/-- Word `i` of the view of a live slot (section 10.8, Slot view). -/
def entryWord (s : State) (e : Entry) (i : Nat) : Word :=
  match i with
  | 0 => joinFields [putField 0 2 (entryCode e.state), putField 4 2 e.master.val, putFlag 6 (kindBit e.kind),
      putFlag 7 (isAbandoned e), putField 8 2 (widthCode e.width), putField 10 2 (widthCode e.fetchWidth),
      putFlag 12 e.wordFetch, putFlag 13 (boolMode e.errorMode), putField 16 2 (branchCode e.branch),
      putField 20 5 e.node.val, putField 28 4 (ageRank s e.slot)]
  | 1 => joinFields [putField 0 22 e.hostAddr.toNat, putField 24 4 e.postedAhead]
  | 2 => joinFields [putField 0 16 e.regAddr.toNat, putField 16 3 ((readyOutcome e).elim 0 (fun o => outcomeCode (outcomeName o))),
      putField 20 4 ((readyOutcome e).elim 0 reasonCode)]
  | 3 => onLanes e.hostAddr.toNat e.writeData
  | 4 => onLanes (fetchBase e) ((readyData e).getD [])
  | _ => joinFields [putField 0 17 ((readyClaim e).getD 0), putFlag 27 (isPending e), putFlag 28 (kindBit e.kind),
      putFlag 29 (readyData e).isSome, putFlag 30 ((readyOutcome e).any isDenied), putFlag 31 (readyClaim e).isSome]

/-- Word `i` of the view of slot `k`; zero for a FREE slot (R165). -/
def slotWord (s : State) (k : Slot) (i : Fin 6) : Word :=
  match entryAt s k with
  | none => 0
  | some e => entryWord s e i.val

/-- The waiting-list word: length, and members head first in bits from 8 (section 10.8). -/
def waitingWord (s : State) : Word :=
  joinFields (putField 0 3 s.waiting.length :: s.waiting.zipIdx.map (fun p => putField (8 + 2 * p.2) 2 p.1.val))

/-- The reservation word of a master (section 10.8). -/
def reservationWord (r : Option Reservation) : Word :=
  match r with
  | none => 0
  | some v => joinFields [putFlag 0 true, putField 8 4 v.slot.val, putField 16 10 v.remaining]

def nodeStateCode : NodeState → Nat
  | .unknown => 0
  | .online => 1
  | .suspect => 2
  | .offline => 3

def parityCode : Parity → Nat
  | .known p => p.toNat
  | .unsure => 2

/-- A node word (section 10.8, Node word). -/
def nodeRecordWord (r : NodeRecord) : Word :=
  joinFields [putField 0 2 (nodeStateCode r.state), putField 4 4 r.failures, putField 8 2 (parityCode r.parity),
    putFlag 10 r.nodeType.isSome, putField 16 8 ((r.nodeType.map BitVec.toNat).getD 0), putField 24 8 r.dropped]

/-- The probe set word: a mark in bit n for each member n (R166). -/
def probeWord (ps : List Node) : Word := joinFields (ps.map (fun n => putFlag n.val true))

/-- The branch status word +0x04. -/
def statusWord (u : BranchUnit) : Word :=
  joinFields [putField 0 2 (ctrlCode u.ctrl), putField 8 4 u.queue.length, putField 16 4 u.postedRun,
    putField 24 4 u.probeDeferral]

/-- The head record's words +0x10 to +0x1C; zero while the queue is empty (R65, R166). -/
def headWord (u : BranchUnit) (i : Nat) : Word :=
  match u.queue with
  | [] => 0
  | r :: _ =>
    match i with
    | 0 => joinFields [putFlag 0 true, putFlag 1 u.headInFlight, putField 2 2 r.master.val, putField 4 2 (widthCode r.width),
        putField 8 3 r.resendsUsed, putField 16 5 r.node.val]
    | 1 => putField 0 22 r.hostAddr.toNat
    | 2 => joinFields [putField 0 16 r.regAddr.toNat, putField 16 10 r.holdsUsed]
    | _ => onLanes r.hostAddr.toNat r.data

/-- The current transaction's words +0x20 to +0x28 (R166). -/
def engineWord (u : BranchUnit) (i : Nat) : Word :=
  match i with
  | 0 =>
    match currentTxn u.engine with
    | none => putField 0 3 (engineCode u.engine)
    | some tx => joinFields [putField 0 3 (engineCode u.engine), putFlag 3 true, putField 4 2 (sourceCode tx.source),
        putField 8 4 (sourceSlot tx.source), putField 16 5 tx.node.val, putField 24 2 (opCode tx.op), putFlag 28 tx.parity]
  | 1 =>
    match currentTxn u.engine with
    | none => 0
    | some tx => joinFields [putField 0 3 tx.resendsUsed, putField 16 10 tx.holdsUsed]
  | _ => putField 0 12 (currentTimer u.engine)

/-- The park slot's words +0x2C and +0x30 (R166). -/
def parkWord (u : BranchUnit) (i : Nat) : Word :=
  match u.park with
  | none => 0
  | some p =>
    match i with
    | 0 => joinFields [putFlag 0 true, putFlag 1 (p.delay = .due), putField 4 2 (sourceCode p.tx.source),
        putField 8 4 (sourceSlot p.tx.source), putField 16 5 p.tx.node.val]
    | _ => joinFields [putField 0 12 (match p.delay with | .waiting n => n | .due => 0), putField 16 10 p.tx.holdsUsed]

/-- The branch view words from +0x10, counted from 0 (section 10.8, Branch block). -/
def branchViewWord (u : BranchUnit) (i : Fin 9) : Word :=
  if i.val < 4 then headWord u i.val
  else if i.val < 7 then engineWord u (i.val - 4)
  else parkWord u (i.val - 7)

def causeCode : FaultCause → Nat
  | .misaligned => 1
  | .undefinedRegister => 2
  | .unmapped => 3
  | .notPermitted => 4
  | .broadcastRead => 5
  | .quotaZero => 6

def recordKindCode : RecordBody → Nat
  | .accessFault _ _ _ => 1
  | .claimExpired _ _ _ _ _ => 2
  | .postedDropped _ _ _ _ _ => 3
  | .postedFlushed _ _ => 4
  | .nodeOffline _ _ => 5
  | .nodeRecovered _ _ => 6
  | .masterAbandoned _ _ _ => 7

/-- Word 0x034 of a record: host address and master, zero where the kind has none. -/
def recordAddrWord : RecordBody → Word
  | .accessFault _ m addr => joinFields [putField 0 22 addr.toNat, putField 24 2 m.val]
  | .claimExpired m _ addr _ _ => joinFields [putField 0 22 addr.toNat, putField 24 2 m.val]
  | .postedDropped _ _ m addr _ => joinFields [putField 0 22 addr.toNat, putField 24 2 m.val]
  | .masterAbandoned m _ _ => putField 24 2 m.val
  | .postedFlushed _ _ => 0
  | .nodeOffline _ _ => 0
  | .nodeRecovered _ _ => 0

def dropWord : DropReason → Word
  | .nodeDenied r => joinFields [putField 0 4 1, putField 4 4 r.toNat]
  | .busyLimit => putField 0 4 2
  | .noReply => putField 0 4 3

/-- Word 0x038 of a record: cause or reason, node reason code, branch, node, slot. -/
def recordPlaceWord : RecordBody → Word
  | .accessFault cause _ _ => putField 0 4 (causeCode cause)
  | .claimExpired _ k _ _ _ => putField 24 4 k.val
  | .postedDropped x n _ _ why => joinFields [dropWord why, putField 8 2 (branchCode x), putField 16 5 n.val]
  | .postedFlushed x _ => putField 8 2 (branchCode x)
  | .nodeOffline x n => joinFields [putField 8 2 (branchCode x), putField 16 5 n.val]
  | .nodeRecovered x n => joinFields [putField 8 2 (branchCode x), putField 16 5 n.val]
  | .masterAbandoned _ _ _ => 0

/-- Word 0x03C of a record: outcome, kind of request, counts. -/
def recordCountWord : RecordBody → Word
  | .claimExpired _ _ _ kind o => joinFields [putField 0 3 (outcomeCode o), putFlag 4 (kindBit kind)]
  | .postedFlushed _ n => putField 8 4 n
  | .masterAbandoned _ freed marked => joinFields [putField 8 4 freed, putField 16 4 marked]
  | .accessFault _ _ _ => 0
  | .postedDropped _ _ _ _ _ => 0
  | .nodeOffline _ _ => 0
  | .nodeRecovered _ _ => 0

/-- The record head view; zero while the queue is empty (R151). -/
def recordViewWord (s : State) (i : Fin 4) : Word :=
  match s.records with
  | [] => 0
  | r :: _ =>
    match i with
    | 0 => joinFields [putFlag 0 true, putField 4 3 (recordKindCode r.body), putField 8 8 r.seq.toNat,
        putField 24 5 s.records.length]
    | 1 => recordAddrWord r.body
    | 2 => recordPlaceWord r.body
    | 3 => recordCountWord r.body

/-- What a width-4 read of a register answers; command registers read as zero (R162). -/
def readReg (r : Reg) (s : State) : Word :=
  match r with
  | .identification => BitVec.ofNat 32 Config.identification
  | .chipReset => 0
  | .divisor => putField 0 6 s.divisor
  | .quotas => joinFields [putField 0 4 s.quotas.m0, putField 8 4 s.quotas.m1, putField 16 4 s.quotas.m2, putField 24 4 s.quotas.m3]
  | .claimWindow => putField 0 12 s.claimWindow
  | .resWindow => putField 0 8 s.resWindow
  | .abandon => 0
  | .commandRefused => putFlag 0 s.commandRefused
  | .recordView i => recordViewWord s i
  | .recordCounter => putField 0 8 s.recordCounter.toNat
  | .attentionStatus => readAttentionStatus s
  | .attentionEnables => readEnables s
  | .probe => 0
  | .revive => 0
  | .apertureWord0 n => readWord0 s.apertures[n.val]
  | .apertureWord1 n => readWord1 s.apertures[n.val]
  | .branchCommand _ => 0
  | .branchStatus x => statusWord (unitOf s x)
  | .branchRates x => readRates (unitOf s x).settings
  | .branchLink x => readLink (unitOf s x).settings
  | .branchView x i => branchViewWord (unitOf s x) i
  | .slotView k i => slotWord s k i
  | .waitingList => waitingWord s
  | .reservation m => reservationWord (s.reservations.get m)
  | .probeSet x => probeWord (unitOf s x).probeSet
  | .nodeWord x n => nodeRecordWord (nodeOf (unitOf s x) n)

end Sys2Proof.Machine
end

