-- ==== Sys2Proof/Machine/Admission.lean ====
section
/-! DEFINITION. The Host Port takes one access and runs the nine steps of admission on it (chapters 2 and 3). -/

namespace Sys2Proof.Machine

/-! ## The repeat search (section 2.2) -/

/-- An exact match (R26). -/
def exactMatch (a : Access) (w : Width) (e : Entry) : Bool :=
  e.master = a.master && e.kind = a.kind && e.hostAddr = a.addr && e.width = w && (e.kind = .read || e.writeData = accessData a w)

/-- A word-fetch alias (R27). -/
def aliasMatch (a : Access) (e : Entry) : Bool :=
  e.master = a.master && e.kind = .read && e.wordFetch && a.kind = .read && wordAddr a.addr = wordAddr e.hostAddr

/-- The oldest live entry the access matches, either way (R26, R27, R28). -/
def repeatOf (a : Access) (w : Width) (s : State) : Option Entry :=
  s.entries.find? (fun e => exactMatch a w e || aliasMatch a e)

/-! ## Answering a repeat (section 2.3) -/

/-- The bytes of an entry's read data that an access at `addr` of width `w` receives: the numbered bytes of the word for a
word-fetch entry, all of them otherwise (R32). -/
def claimBytes (e : Entry) (addr : HostAddr) (w : Width) (bytes : List Byte) : List Byte :=
  if e.wordFetch then (bytes.drop (addr.toNat - wordAddr addr)).take w.bytes else bytes

/-- The response to a claim, from the entry's kind, outcome and error mode (R31 to R34). -/
def claimResponse (a : Access) (w : Width) (e : Entry) (o : Outcome) (d : Option (List Byte)) (s : State) : State :=
  match o, e.kind with
  | .ok, .read => respondData a (claimBytes e a.addr w (d.getD [])) s
  | .ok, .write => respondTaken a s
  | _, _ => respondFailed a w e.errorMode s

/-- A repeat: RETRY with nothing changed while the entry is PENDING or ISSUED; a claim, which frees the slot, when it is
READY (R30, R31). -/
def answerRepeat (a : Access) (w : Width) (e : Entry) (s : State) : State :=
  match e.state with
  | .pending => respondRetry a s
  | .issued _ => respondRetry a s
  | .ready o d _ => claimResponse a w e o d (freeSlot e.slot s)

/-! ## Aperture decode (sections 3.2 and 3.3) -/

/-- The length of an aperture's window (R46). -/
def apertureSize (p : Aperture) : Nat := 256 * 2 ^ p.sizeCode

/-- The host base rounded down to a multiple of the size (R47). -/
def effectiveBase (p : Aperture) : Nat := p.basePage.toNat * 256 / apertureSize p * apertureSize p

/-- The register base rounded down to a multiple of the size (R47). -/
def effectiveRegBase (p : Aperture) : Nat := p.regBase.toNat / apertureSize p * apertureSize p

/-- An enabled aperture contains the addresses of its window (R48). -/
def apertureContains (p : Aperture) (addr : HostAddr) : Bool :=
  p.enable && effectiveBase p ≤ addr.toNat && addr.toNat < effectiveBase p + apertureSize p

/-- The lowest-numbered enabled aperture that contains the address (R48). -/
def decodeAperture (s : State) (addr : HostAddr) : Option Aperture :=
  s.apertures.toList.find? (fun p => apertureContains p addr)

/-- The node register address a host address leads to (R49). -/
def translate (p : Aperture) (addr : Nat) : RegAddr := BitVec.ofNat 16 (effectiveRegBase p + (addr - effectiveBase p))

/-- Whether the aperture permits the direction (R50). -/
def permitted (p : Aperture) : Kind → Bool
  | .read => p.readOk
  | .write => p.writeOk

/-- The access is a read that word-fetch takes as its aligned word (R51). -/
def widened (p : Aperture) (k : Kind) : Bool := p.wordFetch && k = .read

/-- Fetch width of the access through the aperture (R51). -/
def fetchWidthOf (p : Aperture) (k : Kind) (w : Width) : Width := if widened p k then .w4 else w

/-- Node register address of the access through the aperture (R49, R51). -/
def regAddrOf (p : Aperture) (a : Access) : RegAddr :=
  translate p (if widened p a.kind then wordAddr a.addr else a.addr.toNat)

/-! ## The two routes (section 3.6) -/

/-- The posted route: a write to node 0, or through a POSTED aperture (R57). -/
def postedRoute (p : Aperture) (k : Kind) : Bool := k = .write && (p.node = 0 || p.cls = .posted)

/-- The posted record of an accepted write, both counts 0 (R58). -/
def newPosted (a : Access) (w : Width) (p : Aperture) : PostedRecord :=
  { master := a.master, hostAddr := a.addr, node := p.node, regAddr := regAddrOf p a, width := w, data := accessData a w,
    holdsUsed := 0, resendsUsed := 0 }

/-- Step 8: RETRY on a full queue, else the record is appended and the write answered COMPLETE (R58, R67). -/
def admitPosted (a : Access) (w : Width) (p : Aperture) (s : State) : State :=
  if Config.postedDepth ≤ (unitOf s p.branch).queue.length then respondRetry a s
  else respondTaken a (onUnit p.branch (fun u => { u with queue := u.queue ++ [newPosted a w p] }) s)

/-- The entry a deferred request creates in slot `k` (R3, R5, R59). -/
def newEntry (a : Access) (w : Width) (p : Aperture) (k : Slot) (s : State) : Entry :=
  { slot := k, master := a.master, kind := a.kind, hostAddr := a.addr, width := w, writeData := accessData a w,
    branch := p.branch, node := p.node, regAddr := regAddrOf p a, fetchWidth := fetchWidthOf p a.kind w,
    wordFetch := p.wordFetch, errorMode := p.errorMode, postedAhead := (unitOf s p.branch).queue.length, state := .pending }

/-- The entry is created at the tail of the acceptance order and the master answered RETRY (R4, R5). -/
def createEntry (a : Access) (w : Width) (p : Aperture) (k : Slot) (s : State) : State :=
  respondRetry a { s with entries := s.entries ++ [newEntry a w p k s] }

/-- A master refused for want of a slot joins the tail of the waiting list, unless it is on it or the window is 0
(R15 case 3, R16). -/
def joinWaiting (m : Master) (s : State) : State :=
  if s.resWindow = 0 ∨ m ∈ s.waiting then s else { s with waiting := s.waiting ++ [m] }

/-- Slot choice: the master's reserved slot, whose reservation ends; else the lowest open slot; else RETRY (R15, R19). -/
def chooseSlot (a : Access) (w : Width) (p : Aperture) (s : State) : State :=
  match s.reservations.get a.master with
  | some r => createEntry a w p r.slot { s with reservations := s.reservations.set a.master none }
  | none =>
    match lowestOpen s with
    | some k => createEntry a w p k s
    | none => respondRetry a (joinWaiting a.master s)

/-- Step 9: the quota check, then slot choice (R14, R59). -/
def admitDeferred (a : Access) (w : Width) (p : Aperture) (s : State) : State :=
  let quota := s.quotas.get a.master
  if quota = 0 then accessFault a .quotaZero s
  else if quota ≤ liveCount s a.master then respondRetry a s
  else chooseSlot a w p s

/-! ## Steps 5 to 9 -/

/-- Step 7 and the routes: an OFFLINE node short-circuits its work; else the posted or the deferred route (R54 to R57). -/
def admitActive (a : Access) (w : Width) (p : Aperture) (s : State) : State :=
  match nodeIsOffline (unitOf s p.branch) p.node, postedRoute p a.kind with
  | true, true => respondTaken a (onUnit p.branch (onNode p.node countDropped) s)
  | true, false => respondFailed a w p.errorMode s
  | false, true => admitPosted a w p s
  | false, false => admitDeferred a w p s

/-- Step 6: the branch state (R52, R53). -/
def admitDecoded (a : Access) (w : Width) (p : Aperture) (s : State) : State :=
  match (unitOf s p.branch).ctrl with
  | .held => respondFailed a w p.errorMode s
  | .draining => respondRetry a s
  | .quiesced => respondRetry a s
  | .active => admitActive a w p s

/-- Step 5: containment, then permission, then broadcast read (R50). -/
def newRequest (a : Access) (w : Width) (s : State) : State :=
  match decodeAperture s a.addr with
  | none => accessFault a .unmapped s
  | some p =>
    if permitted p a.kind = false then accessFault a .notPermitted s
    else if a.kind = .read ∧ p.node = 0 then accessFault a .broadcastRead s
    else admitDecoded a w p s

/-! ## Steps 1 to 4 -/

/-- Step 3: a register access is answered by the register window alone (R45, R162). -/
def registerAccess (a : Access) (w : Width) (s : State) : State :=
  match regAt a.addr.toNat, w, a.kind with
  | some r, .w4, .read => respond a.master .complete (some (readReg r s)) s
  | some r, .w4, .write =>
    match writeReg r a.lanes s with
    | some t => respondTaken a t
    | none => accessFault a .undefinedRegister s
  | _, _, _ => accessFault a .undefinedRegister s

/-- Step 2: the width an access has, if its code names one and its address is a multiple of it (R44). -/
def alignedWidth (a : Access) : Option Width :=
  (widthOf a.widthCode).filter (fun w => a.addr.toNat % w.bytes = 0)

/-- Admission: the nine steps in order; the first that decides the access gives its one response (R43). -/
def runAdmission (a : Access) (s : State) : State :=
  if s.phase ≠ .run then respondRetry a s
  else
    match alignedWidth a with
    | none => accessFault a .misaligned s
    | some w =>
      if a.addr.toNat < Config.windowSize then registerAccess a w s
      else
        match repeatOf a w s with
        | some e => answerRepeat a w e s
        | none => newRequest a w s

/-- A register write that carries a command or a setting of master `m`: RETRY with nothing changed while the port is in
RESET, else the effect, answered COMPLETE (R43, R45, R136, R162). -/
def registerCommand (m : Master) (effect : State → State) (s : State) : State :=
  if s.phase ≠ .run then respond m .retry none s else respond m .complete none (effect s)

/-! ## The commands of the host port -/

/-- HOST_ACCESS (R43). -/
def execHostAccess (a : Access) (s : State) : Host.Outcome State Fault Refusal := .next (runAdmission a s)

/-- REGISTER_WRITE (R162): the write at this offset of the register window. -/
def execRegisterWrite (m : Master) (offset : BitVec 12) (widthCode : BitVec 2) (data : Word) (s : State) : Host.Outcome State Fault Refusal :=
  .next (runAdmission { master := m, kind := .write, addr := offset.setWidth 22, widthCode := widthCode, lanes := data } s)

/-- CLAIM_WINDOW_WRITE (R36). -/
def execClaimWindowWrite (m : Master) (data : Word) (s : State) : Host.Outcome State Fault Refusal :=
  .next (registerCommand m (writeClaimWindow data) s)

/-- RESERVATION_WINDOW_WRITE (R21). -/
def execReservationWindowWrite (m : Master) (data : Word) (s : State) : Host.Outcome State Fault Refusal :=
  .next (registerCommand m (writeResWindow data) s)

/-- ATTENTION_ENABLES_WRITE (R154). -/
def execAttentionEnablesWrite (m : Master) (data : Word) (s : State) : Host.Outcome State Fault Refusal :=
  .next (registerCommand m (writeEnables data) s)

end Sys2Proof.Machine
end

