-- ==== Sys2Proof/Machine/Commands.lean ====
section
/-! DEFINITION. The commands software writes into the register window, each a register write of one master. -/

namespace Sys2Proof.Machine

/-- ABANDON (R22). -/
def execAbandon (m : Master) (target : Master) (s : State) : Host.Outcome State Fault Refusal :=
  .next (registerCommand m (abandonMaster target) s)

/-- PROBE (R130). -/
def execProbe (m : Master) (x : Branch) (n : Node) (s : State) : Host.Outcome State Fault Refusal :=
  .next (registerCommand m (probeNode x n) s)

/-- REVIVE (R131). -/
def execRevive (m : Master) (x : Branch) (n : Node) (s : State) : Host.Outcome State Fault Refusal :=
  .next (registerCommand m (reviveNode x n) s)

/-- COMMAND_REFUSED_CLEAR: one written to bit 0 (R133). -/
def execCommandRefusedClear (m : Master) (s : State) : Host.Outcome State Fault Refusal :=
  .next (registerCommand m (writeCommandRefused 1) s)

/-- QUIESCE (R137). -/
def execQuiesce (m : Master) (x : Branch) (s : State) : Host.Outcome State Fault Refusal :=
  .next (registerCommand m (quiesceBranch x) s)

/-- RESUME (R141). -/
def execResume (m : Master) (x : Branch) (s : State) : Host.Outcome State Fault Refusal :=
  .next (registerCommand m (resumeBranch x) s)

/-- HOLD (R142). -/
def execHold (m : Master) (x : Branch) (s : State) : Host.Outcome State Fault Refusal :=
  .next (registerCommand m (holdBranch x) s)

/-- RELEASE (R144). -/
def execRelease (m : Master) (x : Branch) (s : State) : Host.Outcome State Fault Refusal :=
  .next (registerCommand m (releaseBranch x) s)

/-- UNKNOWN_BRANCH_COMMAND: the code written to the command field; 0 and 5–15 are refused (R136). -/
def execUnknownBranchCommand (m : Master) (x : Branch) (code : BitVec 4) (s : State) : Host.Outcome State Fault Refusal :=
  .next (registerCommand m (branchCommand x code.toNat) s)

/-- POP (R152). -/
def execPop (m : Master) (s : State) : Host.Outcome State Fault Refusal := .next (registerCommand m popRecord s)

/-- OVERRUN_CLEAR: one written to bit 1 of the attention status (R150). -/
def execOverrunClear (m : Master) (s : State) : Host.Outcome State Fault Refusal :=
  .next (registerCommand m (writeAttentionStatus 2) s)

/-- QUIESCED_CLEAR: `flags` written to bits 7–4 of the attention status (R153). -/
def execQuiescedClear (m : Master) (flags : BitVec 4) (s : State) : Host.Outcome State Fault Refusal :=
  .next (registerCommand m (writeAttentionStatus (flags.setWidth 32 <<< 4)) s)

/-- CHIP_RESET: one written to bit 0 of 0x004 (R161). -/
def execChipReset (m : Master) (s : State) : Host.Outcome State Fault Refusal :=
  .next (registerCommand m chipResetState s)

/-- DRAIN_COMPLETE: the completion of R139 for branch `x`, where it is DRAINING and drained. -/
def execDrainComplete (x : Branch) (s : State) : Host.Outcome State Fault Refusal := .next (completeDrain x s)

end Sys2Proof.Machine
end

