-- ==== Sys2Proof/Machine/Link.lean ====
section
/-! DEFINITION. The Link Engine: sending, replies, HOLD, silence, and the end of a transaction handed to its source and
then to the Node Table (chapters 6 and 7). -/

namespace Sys2Proof.Machine

/-! ## Sending -/

/-- The rate a frame of branch `x` that begins now is sent or received at (R98, R159). -/
def lineRate (s : State) (x : Branch) : LineRate :=
  { kbps := (unitOf s x).settings.bitRate.kbps, divisor := s.divisor }

/-- The engine of branch `x` enters TRANSMIT with transaction `tx` and begins its frame (R103, R109, R110). -/
def startSend (x : Branch) (tx : Txn) (s : State) : State :=
  onUnit x (fun u => { u with engine := .transmit tx (lineRate s x) }) s

/-! ## The end of a transaction (R111) -/

/-- How a transaction ends. -/
inductive TxEnd where
  | data (bytes : List Byte)
  | done
  | broadcastSent
  | denied (reason : BitVec 4)
  | busyLimit
  | noReply
  | present (nodeType : Byte) (lastParity : Bool)
  deriving DecidableEq, Repr

/-- The outcome an end gives a deferred entry (R7). -/
def outcomeOf : TxEnd → Outcome
  | .data _ => .ok
  | .done => .ok
  | .broadcastSent => .ok
  | .present _ _ => .ok
  | .denied r => .nodeDenied r
  | .busyLimit => .busyLimit
  | .noReply => .noReply

/-- The read data an end carries (R7). -/
def readDataOf : TxEnd → Option (List Byte)
  | .data bytes => some bytes
  | _ => none

/-- The reason an end drops a posted write for, if it does (R73, R74, R75). -/
def dropReasonOf : TxEnd → Option DropReason
  | .denied r => some (.nodeDenied r)
  | .busyLimit => some .busyLimit
  | .noReply => some .noReply
  | _ => none

/-- The POSTED_DROPPED record of a dropped posted head (R73, R74, R75). -/
def droppedRecord (x : Branch) (r : PostedRecord) (why : DropReason) : RecordBody :=
  .postedDropped x r.node r.master r.hostAddr why

/-- The head leaves its queue at the end of its transaction, with a POSTED_DROPPED record for a failure (R71 to R75). -/
def endPosted (x : Branch) (e : TxEnd) (s : State) : State :=
  match (unitOf s x).queue, dropReasonOf e with
  | r :: _, some why => offer (droppedRecord x r why) (departHead x s)
  | _, _ => departHead x s

/-- The entry of a deferred transaction becomes READY with the outcome, or its slot FREE if it is marked abandoned
(R7, R8). -/
def endDeferred (k : Slot) (e : TxEnd) (s : State) : State :=
  match entryAt s k with
  | none => s
  | some entry =>
    match entry.state with
    | .issued true => freeSlot k s
    | .issued false =>
      onEntries (fun e' => if e'.slot = k then makeReady (claimStart s) (outcomeOf e) (readDataOf e) e' else e') s
    | _ => s

/-- What the end does to the transaction's source (R111, step 1). -/
def endSource (x : Branch) (tx : Txn) (e : TxEnd) (s : State) : State :=
  match tx.source with
  | .posted => endPosted x e s
  | .slot k => endDeferred k e s
  | .probeSet => onUnit x (fun u => { u with probeSet := probeLeave tx.node u.probeSet }) s
  | .resync => s

/-- The next write parity after an end that a valid reply gave (R112). -/
def parityAfter (tx : Txn) (e : TxEnd) (p : Parity) : Parity :=
  match e, tx.op with
  | .done, .write => opposite tx.parity
  | .present _ last, _ => opposite last
  | _, _ => p

/-- The node type after an end that a valid reply gave (R127). -/
def typeAfter (e : TxEnd) (t : Option Byte) : Option Byte :=
  match e with
  | .present nodeType _ => some nodeType
  | _ => t

/-- The record of a node from which a valid reply arrived (R123). -/
def recordReplied (r : NodeRecord) : NodeRecord := { r with state := .online, failures := 0 }

/-- A valid reply that does not by itself end the transaction, or the health part of one that does: ONLINE with
failures 0, and a NODE_RECOVERED record if the node was OFFLINE (R123, R126). -/
def nodeReplied (x : Branch) (n : Node) (f : NodeRecord → NodeRecord) (s : State) : State :=
  let t := onUnit x (onNode n (fun r => f (recordReplied r))) s
  if nodeIsOffline (unitOf s x) n then offer (.nodeRecovered x n) t else t

/-- Whether one more failure brings a node to its branch's threshold from a state other than OFFLINE (R124). -/
def turnsOffline (u : BranchUnit) (n : Node) : Bool :=
  !nodeIsOffline u n && u.settings.offlineThreshold ≤ min Config.failuresMax ((nodeOf u n).failures + 1)

/-- The record of a node whose transaction ended with NO_REPLY: one more failure, SUSPECT or OFFLINE, and parity UNSURE
after a write (R112, R124). -/
def recordSilent (op : Op) (threshold : Nat) (r : NodeRecord) : NodeRecord :=
  let n := min Config.failuresMax (r.failures + 1)
  { r with
    failures := n
    state := if r.state = .offline ∨ threshold ≤ n then .offline else .suspect
    parity := if op = .write then .unsure else r.parity }

/-- PENDING entries of a node that turns OFFLINE become READY with NODE_OFFLINE (R9). -/
def releasedByTurn (x : Branch) (n : Node) (claim : Option Nat) (e : Entry) : Entry :=
  if e.branch = x && e.node = n && isPending e then makeReady claim .nodeOffline none e else e

/-- A NO_REPLY outcome for node `n`: a failure is counted, and at the threshold the node turns OFFLINE with its record and
the release of its PENDING entries (R124, R125). -/
def nodeSilent (x : Branch) (tx : Txn) (s : State) : State :=
  let u := unitOf s x
  let t := onUnit x (onNode tx.node (recordSilent tx.op u.settings.offlineThreshold)) s
  if turnsOffline u tx.node then
    onEntries (releasedByTurn x tx.node (claimStart s)) (offer (.nodeOffline x tx.node) t)
  else t

/-- What the end does to the Node Table; a broadcast has no node record (R111, step 2). -/
def endNode (x : Branch) (tx : Txn) (e : TxEnd) (s : State) : State :=
  if tx.node = 0 then s
  else
    match e with
    | .noReply => nodeSilent x tx s
    | _ => nodeReplied x tx.node (fun r => { r with parity := parityAfter tx e r.parity, nodeType := typeAfter e r.nodeType }) s

/-- The end of the current transaction of branch `x`: the engine is IDLE, the source is served first, then the Node
Table, and a drain this completes is completed in the same event (R111, R139). -/
def endTxn (x : Branch) (tx : Txn) (e : TxEnd) (s : State) : State :=
  completeDrain x
    (endNode x tx e (endSource x tx e (onUnit x (fun u => { dropReception u with engine := .idle }) s)))

/-! ## Silence and HOLD -/

/-- The reply window has expired, or an invalid reply has arrived, in AWAIT: a resend below the resend limit, else the end
with NO_REPLY (R110). -/
def silence (x : Branch) (tx : Txn) (s : State) : State :=
  if tx.resendsUsed < (unitOf s x).settings.resendLimit then
    let tx' := { tx with resendsUsed := tx.resendsUsed + 1 }
    startSend x tx' (onUnit x (fun u => copyCounts tx' (dropReception u)) s)
  else endTxn x tx .noReply s

/-- A valid HOLD reply (R107): BUSY_LIMIT at the hold limit, else into the park slot, else BACKOFF. The node counts as
having replied in each case (R123). -/
def holdReply (x : Branch) (tx : Txn) (s : State) : State :=
  let tx' := { tx with holdsUsed := tx.holdsUsed + 1 }
  let u := unitOf s x
  let delay := u.settings.holdDelay * Config.linkUnit
  if u.settings.holdLimit ≤ tx'.holdsUsed then endTxn x tx' .busyLimit (onUnit x (copyCounts tx') s)
  else
    match u.park with
    | none =>
      nodeReplied x tx.node id
        (onUnit x (fun v => { copyCounts tx' (dropReception v) with
          engine := .idle, park := some { tx := tx', delay := .waiting delay } }) s)
    | some _ =>
      nodeReplied x tx.node id
        (onUnit x (fun v => { copyCounts tx' (dropReception v) with engine := .backoff tx' delay }) s)

/-- A judged reply to the current transaction (R106, R107). -/
def takeReply (x : Branch) (tx : Txn) (r : Option Reply) (s : State) : State :=
  match r with
  | none => silence x tx s
  | some .hold => holdReply x tx s
  | some (.data bytes) => endTxn x tx (.data bytes) s
  | some .done => endTxn x tx .done s
  | some (.deny reason) => endTxn x tx (.denied reason) s
  | some (.present nodeType last) => endTxn x tx (.present nodeType last) s

/-! ## The line receiver (R169) -/

/-- Whether the engine is in AWAIT. -/
def inAwait (u : BranchUnit) : Bool :=
  match u.engine with
  | .await _ _ => true
  | _ => false

/-- The receiver after a start mark: a frame being ignored is ignored on; else in AWAIT a reception begins, discarding one in
progress, and in any other state the frame is ignored until its end mark (R169). -/
def receiverAfterMark (rate : LineRate) (u : BranchUnit) : Receiver :=
  match u.receiver with
  | .ignoring => .ignoring
  | _ => if inAwait u then .receiving rate else .ignoring

/-- A start mark on the line of branch `x` (R169); while RST_N is low every value is held (R160). -/
def receiveStart (x : Branch) (s : State) : State :=
  if s.phase = .pinLow then s
  else onUnit x (fun u => { u with receiver := receiverAfterMark (lineRate s x) u }) s

/-- A frame has arrived on branch `x`. One received as a reply in AWAIT is judged, at the rate its reception began at; any
other is discarded in this event (R105, R114, R169, R98). -/
def receiveFrame (x : Branch) (f : RxFrame) (s : State) : State :=
  match (unitOf s x).receiver, (unitOf s x).engine with
  | .receiving rate, .await tx _ =>
    takeReply x tx (if sameRate rate f.rate then judgeReply tx f.bytes f.endMark else none)
      (onUnit x (fun u => { u with receiver := .clear }) s)
  | .receiving _, _ => onUnit x (fun u => { u with receiver := .clear }) s
  | .ignoring, _ => if f.endMark then onUnit x (fun u => { u with receiver := .clear }) s else s
  | .clear, _ => s

/-! ## Send-complete (R104) -/

/-- The command frame has left the part: a broadcast ends with OK; any other transaction is awaited with a fresh reply
window. Outside TRANSMIT the event does not arise. -/
def finishSend (x : Branch) (s : State) : State :=
  match (unitOf s x).engine with
  | .transmit tx _ =>
    if tx.node = 0 then endTxn x tx .broadcastSent s
    else onUnit x (fun u => { u with engine := .await tx (u.settings.replyWindow * Config.linkUnit) }) s
  | _ => s

/-! ## The commands of the link -/

/-- SEND_COMPLETE (R104). -/
def execSendComplete (x : Branch) (s : State) : Host.Outcome State Fault Refusal := .next (finishSend x s)

/-- REPLY_FRAME (R105, R106, R107, R114, R169). -/
def execReplyFrame (x : Branch) (f : RxFrame) (s : State) : Host.Outcome State Fault Refusal := .next (receiveFrame x f s)

/-- START_MARK (R169). -/
def execStartMark (x : Branch) (s : State) : Host.Outcome State Fault Refusal := .next (receiveStart x s)

end Sys2Proof.Machine
end

