-- ==== Sys2Proof/Machine/Scheduler.lean ====
section
/-! DEFINITION. The Branch Scheduler's choice event: OFFLINE heads dropped, the four candidates, the choice, the two counts
and the resync substitution (chapter 5). -/

namespace Sys2Proof.Machine

/-! ## OFFLINE heads (R76, R83) -/

/-- The run of records at the head that the choice event drops: none while the head is in flight, else every consecutive
record for an OFFLINE node 1–31. -/
def offlineRun (u : BranchUnit) : List PostedRecord :=
  if u.headInFlight then [] else u.queue.takeWhile (fun r => nodeIsOffline u r.node)

/-- One head dropped for its OFFLINE node: a departure, and the node's dropped-write count rises; no record. -/
def dropHead (x : Branch) (n : Node) (s : State) : State :=
  onUnit x (onNode n countDropped) (departHead x s)

/-- Every head of the run dropped in queue order, each as its own departure. -/
def dropOfflineHeads (x : Branch) (s : State) : State :=
  (offlineRun (unitOf s x)).foldl (fun t r => dropHead x r.node t) s

/-! ## The candidates (section 5.2) -/

/-- The parked node, while the park slot holds a transaction. -/
def parkedNode (u : BranchUnit) : Option Node := u.park.map (fun p => p.tx.node)

/-- K: the parked transaction, once its hold delay has expired (R84). -/
def candidateK (u : BranchUnit) : Option Txn :=
  match u.park with
  | some { tx := tx, delay := .due } => some tx
  | _ => none

/-- P: the head record, not in flight and not for the parked node (R85). -/
def candidateP (u : BranchUnit) : Option PostedRecord :=
  match u.queue with
  | r :: _ => if u.headInFlight || parkedNode u = some r.node then none else some r
  | [] => none

/-- D: the oldest PENDING entry of the branch with posted-ahead count 0 and not for the parked node (R86). -/
def candidateD (x : Branch) (s : State) : Option Entry :=
  s.entries.find? (fun e =>
    isPending e && e.branch = x && e.postedAhead = 0 && parkedNode (unitOf s x) ≠ some e.node)

/-- Q: the lowest member of the probe set that is not the parked node (R87). -/
def candidateQ (u : BranchUnit) : Option Node := u.probeSet.find? (fun n => parkedNode u ≠ some n)

/-! ## The choice (R88) -/

/-- What a choice event chooses. -/
inductive Choice where
  | parked (tx : Txn)
  | posted (r : PostedRecord)
  | deferred (e : Entry)
  | probe (n : Node)
  | nothing
  deriving DecidableEq, Repr

/-- The first of the six cases of R88 that applies. -/
def choose (x : Branch) (s : State) : Choice :=
  let u := unitOf s x
  let p := candidateP u
  let d := candidateD x s
  let q := candidateQ u
  let case1 := (candidateK u).map .parked
  let case2 := if Config.probeDeferralLimit ≤ u.probeDeferral then q.map .probe else none
  let case3 := if p.isNone ∨ u.settings.postedAllowance ≤ u.postedRun then d.map .deferred else none
  let case4 := p.map .posted
  let case5 := q.map .probe
  (((((case1.or case2).or case3).or case4).or case5).getD .nothing)

/-! ## Transactions handed to the engine (R89, R92, R97) -/

/-- A probe transaction, with parity 0. -/
def probeTxn (source : Source) (n : Node) : Txn :=
  { source := source, node := n, op := .probe, regAddr := 0, width := .w1, data := [], parity := false, resendsUsed := 0, holdsUsed := 0 }

/-- The transaction of a posted record, sent with parity `p`. -/
def postedTxn (r : PostedRecord) (p : Bool) : Txn :=
  { source := .posted, node := r.node, op := .write, regAddr := r.regAddr, width := r.width, data := r.data, parity := p,
    resendsUsed := 0, holdsUsed := 0 }

/-- The transaction of an entry, sent with parity `p`. -/
def deferredTxn (e : Entry) (p : Bool) : Txn :=
  { source := .slot e.slot, node := e.node, op := if e.kind = .read then .read else .write, regAddr := e.regAddr,
    width := e.fetchWidth, data := e.writeData, parity := p, resendsUsed := 0, holdsUsed := 0 }

/-- Parity of a fresh write to node `n`: 0 for a broadcast, the node's next write parity for 1–31, none while it is UNSURE
(R92, R97, R113). -/
def writeParity (u : BranchUnit) (n : Node) : Option Bool :=
  if n = 0 then some false
  else
    match (nodeOf u n).parity with
    | .known p => some p
    | .unsure => none

/-- Parity of an entry's transaction: a READ carries 0 whatever the node's next write parity (R92, R113). -/
def entryParity (u : BranchUnit) (e : Entry) : Option Bool :=
  match e.kind with
  | .read => some false
  | .write => writeParity u e.node

/-- The counts after P or D is issued with posted-run count `run` (R90, R91). -/
def countIssue (run : Nat) (u : BranchUnit) : BranchUnit :=
  { u with
    postedRun := run
    probeDeferral := if u.probeSet.isEmpty then u.probeDeferral else min Config.probeDeferralLimit (u.probeDeferral + 1) }

/-- A resync probe goes in place of a write to a node whose parity is UNSURE; the write is left as it was (R92). -/
def issueResync (x : Branch) (n : Node) (s : State) : State :=
  startSend x (probeTxn .resync n) (onUnit x (fun u => { u with probeDeferral := 0 }) s)

/-- The chosen candidate handed to the Link Engine, with what its own block records and the counts (R89 to R92). -/
def issue (x : Branch) (c : Choice) (s : State) : State :=
  match c with
  | .nothing => s
  | .parked tx => startSend x tx (onUnit x (fun u => { u with park := none }) s)
  | .probe n => startSend x (probeTxn .probeSet n) (onUnit x (fun u => { u with probeDeferral := 0 }) s)
  | .posted r =>
    match writeParity (unitOf s x) r.node with
    | none => issueResync x r.node s
    | some p =>
      startSend x (postedTxn r p)
        (onUnit x (fun u => { countIssue (min Config.postedRunMax (u.postedRun + 1)) u with headInFlight := true }) s)
  | .deferred e =>
    match entryParity (unitOf s x) e with
    | none => issueResync x e.node s
    | some p =>
      startSend x (deferredTxn e p)
        (onEntries (fun e' => if e'.slot = e.slot then { e' with state := .issued false } else e')
          (onUnit x (countIssue 0) s))

/-- A choice event may be taken while the engine is IDLE and the branch ACTIVE or DRAINING; without work it does nothing
(R82). -/
def mayChoose (u : BranchUnit) : Bool := u.engine = .idle && (u.ctrl = .active || u.ctrl = .draining)

/-- One choice event: the drops, the choice, the issue; drops that leave a DRAINING branch drained complete its drain
(R82, R83, R88, R89, R139). -/
def choiceEvent (x : Branch) (s : State) : State :=
  if mayChoose (unitOf s x) then
    let t := dropOfflineHeads x s
    completeDrain x (issue x (choose x t) t)
  else s

/-- CHOICE_EVENT (R82). -/
def execChoiceEvent (x : Branch) (s : State) : Host.Outcome State Fault Refusal := .next (choiceEvent x s)

end Sys2Proof.Machine
end

