-- ==== Sys2Proof/Machine/Timers.lean ====
section
/-! DEFINITION. The Timebase's tick and the five kinds of expiry (R20, R38, R108, R109, R110, R159). Every timer that a tick brings
to zero expires in the event of that tick. The row of an expiry is that expiry taken as an event of its own, for a timer that runs and
has at most the one tick left that brings it to zero; on any other timer the expiry does not arise and changes nothing (R11, R20,
R39). DESIGN CHOICE: the order of the expiries of one tick, and the rows by themselves (notes/assumptions/4). -/

namespace Sys2Proof.Machine

/-! ## The expiries -/

/-- The claim timer of the entry in slot `k` reaches zero: the slot becomes FREE, then a CLAIM_EXPIRED record is
offered (R38). -/
def expireClaim (k : Slot) (s : State) : State :=
  match entryAt s k with
  | none => s
  | some e =>
    match e.state with
    | .ready o _ (some n) =>
      if n ≤ 1 then offer (.claimExpired e.master e.slot e.hostAddr e.kind (outcomeName o)) (freeSlot k s) else s
    | _ => s

/-- The reservation of master `m` reaches zero: it ends and its slot is handed on (R20). -/
def expireReservation (m : Master) (s : State) : State :=
  match s.reservations.get m with
  | some r => if r.remaining ≤ 1 then endReservation m s else s
  | none => s

/-- The reply window of branch `x` reaches zero in AWAIT (R110). -/
def expireReplyWindow (x : Branch) (s : State) : State :=
  match (unitOf s x).engine with
  | .await tx n => if n ≤ 1 then silence x tx s else s
  | _ => s

/-- The parked transaction's hold delay reaches zero: it becomes due (R108). -/
def expireParked (x : Branch) (s : State) : State :=
  match (unitOf s x).park with
  | some { tx := tx, delay := .waiting n } =>
    if n ≤ 1 then onUnit x (fun u => { u with park := some { tx := tx, delay := .due } }) s else s
  | _ => s

/-- The hold delay in BACKOFF reaches zero: the same frame is sent again, neither count changed (R109). -/
def expireBackoff (x : Branch) (s : State) : State :=
  match (unitOf s x).engine with
  | .backoff tx n => if n ≤ 1 then startSend x tx s else s
  | _ => s

/-- The expiry of one timer. -/
def expire (t : Timer) (s : State) : State :=
  match t with
  | .claim k => expireClaim k s
  | .reservation m => expireReservation m s
  | .replyWindow x => expireReplyWindow x s
  | .parkedHold x => expireParked x s
  | .backoffHold x => expireBackoff x s

/-! ## The tick -/

/-- A claim timer's time remaining falls by one. -/
def tickEntry (e : Entry) : Entry :=
  match e.state with
  | .ready o d (some n) => { e with state := .ready o d (some (n - 1)) }
  | _ => e

/-- A reservation's time remaining falls by one. -/
def tickReservation (r : Option Reservation) : Option Reservation :=
  r.map (fun v => { v with remaining := v.remaining - 1 })

/-- A running reply window or BACKOFF hold delay falls by one. -/
def tickEngine : Engine → Engine
  | .await tx n => .await tx (n - 1)
  | .backoff tx n => .backoff tx (n - 1)
  | .off => .off
  | .idle => .idle
  | .transmit tx rate => .transmit tx rate

/-- A running hold delay in the park slot falls by one. -/
def tickPark (p : Option Parked) : Option Parked :=
  p.map (fun v =>
    match v.delay with
    | .waiting n => { v with delay := .waiting (n - 1) }
    | .due => v)

/-- The timers of one branch fall by one. -/
def tickUnit (u : BranchUnit) : BranchUnit := { u with engine := tickEngine u.engine, park := tickPark u.park }

/-- Every running timer's time remaining falls by one, and the divisor written since the last tick takes effect for the next
(R159). -/
def lowerTimers (s : State) : State :=
  { s with
    entries := s.entries.map tickEntry
    reservations := ⟨tickReservation s.reservations.m0, tickReservation s.reservations.m1,
                     tickReservation s.reservations.m2, tickReservation s.reservations.m3⟩
    branches := ⟨tickUnit s.branches.a, tickUnit s.branches.b, tickUnit s.branches.c, tickUnit s.branches.d⟩
    refclkPeriods := s.refclkPeriods + s.tickDivisor
    tickDivisor := s.divisor }

/-- Every timer of the part: by kind, then by slot, master or branch (R159). -/
def allTimers : List Timer :=
  allSlots.map .claim ++ allMasters.map .reservation ++ allBranches.map .replyWindow ++ allBranches.map .parkedHold ++
    allBranches.map .backoffHold

/-- The time remaining of a timer, if it runs (R159). -/
def timeLeft (t : Timer) (s : State) : Option Nat :=
  match t with
  | .claim k =>
    match (entryAt s k).map Entry.state with
    | some (.ready _ _ left) => left
    | _ => none
  | .reservation m => (s.reservations.get m).map Reservation.remaining
  | .replyWindow x =>
    match (unitOf s x).engine with
    | .await _ n => some n
    | _ => none
  | .parkedHold x =>
    match (unitOf s x).park with
    | some { tx := _, delay := .waiting n } => some n
    | _ => none
  | .backoffHold x =>
    match (unitOf s x).engine with
    | .backoff _ n => some n
    | _ => none

/-- The timers that stand at zero once a tick has lowered them, in the order their expiries are taken: first those that `order` lists,
as it lists them, then the rest. -/
def expiryOrder (order : List Timer) (s : State) : List Timer :=
  order.filter (fun t => timeLeft t s = some 0) ++
    allTimers.filter (fun t => timeLeft t s = some 0 && !order.contains t)

/-- One tick: every running timer falls by one, and every timer this brings to zero expires in the tick's own event (R159). -/
def tick (order : List Timer) (s : State) : State :=
  (expiryOrder order (lowerTimers s)).foldl (fun u t => expire t u) (lowerTimers s)

/-! ## The commands of time -/

/-- MICROSECOND_TICK (R159). -/
def execMicrosecondTick (order : List Timer) (s : State) : Host.Outcome State Fault Refusal := .next (tick order s)

/-- CLAIM_TIMER_EXPIRY (R38). -/
def execClaimTimerExpiry (k : Slot) (s : State) : Host.Outcome State Fault Refusal := .next (expireClaim k s)

/-- RESERVATION_EXPIRY (R20). -/
def execReservationExpiry (m : Master) (s : State) : Host.Outcome State Fault Refusal := .next (expireReservation m s)

/-- REPLY_WINDOW_EXPIRY (R110). -/
def execReplyWindowExpiry (x : Branch) (s : State) : Host.Outcome State Fault Refusal := .next (expireReplyWindow x s)

/-- PARKED_HOLD_DELAY_EXPIRY (R108). -/
def execParkedHoldDelayExpiry (x : Branch) (s : State) : Host.Outcome State Fault Refusal := .next (expireParked x s)

/-- BACKOFF_HOLD_DELAY_EXPIRY (R109). -/
def execBackoffHoldDelayExpiry (x : Branch) (s : State) : Host.Outcome State Fault Refusal := .next (expireBackoff x s)

end Sys2Proof.Machine
end

