-- ==== Sys2Proof/Machine/Dispatch.lean ====
section
/-! DEFINITION. One arm per command. -/

namespace Sys2Proof.Machine

def exec (i : Instr) (s : State) : Host.Outcome State Fault Refusal :=
  match i with
  | .hostAccess a => Sys2Proof.Machine.execHostAccess a s
  | .registerWrite m offset widthCode data => Sys2Proof.Machine.execRegisterWrite m offset widthCode data s
  | .claimWindowWrite m data => Sys2Proof.Machine.execClaimWindowWrite m data s
  | .reservationWindowWrite m data => Sys2Proof.Machine.execReservationWindowWrite m data s
  | .attentionEnablesWrite m data => Sys2Proof.Machine.execAttentionEnablesWrite m data s
  | .abandon m target => Sys2Proof.Machine.execAbandon m target s
  | .probe m x n => Sys2Proof.Machine.execProbe m x n s
  | .revive m x n => Sys2Proof.Machine.execRevive m x n s
  | .commandRefusedClear m => Sys2Proof.Machine.execCommandRefusedClear m s
  | .quiesce m x => Sys2Proof.Machine.execQuiesce m x s
  | .resume m x => Sys2Proof.Machine.execResume m x s
  | .hold m x => Sys2Proof.Machine.execHold m x s
  | .release m x => Sys2Proof.Machine.execRelease m x s
  | .pop m => Sys2Proof.Machine.execPop m s
  | .overrunClear m => Sys2Proof.Machine.execOverrunClear m s
  | .quiescedClear m flags => Sys2Proof.Machine.execQuiescedClear m flags s
  | .chipReset m => Sys2Proof.Machine.execChipReset m s
  | .chipResetEnd => Sys2Proof.Machine.execChipResetEnd s
  | .pinReset => Sys2Proof.Machine.execPinReset s
  | .initialisationEnd => Sys2Proof.Machine.execInitialisationEnd s
  | .claimTimerExpiry k => Sys2Proof.Machine.execClaimTimerExpiry k s
  | .reservationExpiry m => Sys2Proof.Machine.execReservationExpiry m s
  | .choiceEvent x => Sys2Proof.Machine.execChoiceEvent x s
  | .sendComplete x => Sys2Proof.Machine.execSendComplete x s
  | .replyFrame x f => Sys2Proof.Machine.execReplyFrame x f s
  | .replyWindowExpiry x => Sys2Proof.Machine.execReplyWindowExpiry x s
  | .parkedHoldDelayExpiry x => Sys2Proof.Machine.execParkedHoldDelayExpiry x s
  | .backoffHoldDelayExpiry x => Sys2Proof.Machine.execBackoffHoldDelayExpiry x s
  | .drainComplete x => Sys2Proof.Machine.execDrainComplete x s
  | .rstNRelease => Sys2Proof.Machine.execRstNRelease s
  | .startMark x => Sys2Proof.Machine.execStartMark x s
  | .unknownBranchCommand m x code => Sys2Proof.Machine.execUnknownBranchCommand m x code s
  | .microsecondTick order => Sys2Proof.Machine.execMicrosecondTick order s

end Sys2Proof.Machine
end

