-- ==== Sys2Proof/Machine/NodePartner.lean ====
section
/-! DEFINITION. The behaviour the part requires of a node in answer to its frames (section 6.7). A node stands outside the part
and is no part of `State`; it reaches the part as REPLY_FRAME commands. -/

namespace Sys2Proof.Machine

/-- A node: its address, type, last executed parity, and the writes it has executed, oldest first. -/
structure NodeModel where
  addr         : Node
  nodeType     : Byte
  lastExecuted : Bool
  executed     : List (RegAddr × List Byte)
  deriving DecidableEq, Repr

/-- A node's own choice where the manual leaves it one: to obey (with the register contents it reads), to answer HOLD, or to
answer DENY with a reason (R115, R116). -/
inductive NodeWill where
  | obey (contents : List Byte)
  | hold
  | deny (reason : BitVec 4)
  deriving DecidableEq, Repr

/-- A command frame's fields as a node reads them (R100). -/
structure Command where
  node    : Node
  op      : Op
  parity  : Bool
  regAddr : RegAddr
  width   : Byte
  data    : List Byte
  deriving DecidableEq, Repr

/-- The operation a code names; 00 is not sent (R168). -/
def opOf (code : Nat) : Option Op :=
  match code with
  | 1 => some .read
  | 2 => some .write
  | 3 => some .probe
  | _ => none

/-- A frame as the node reads it: none when its check is bad or it is no command (R102, R115). -/
def parseCommand (frame : List Byte) : Option Command :=
  if frame.drop (frame.length - 2) ≠ checkBytes (frame.take (frame.length - 2)) then none
  else
    match frame.take (frame.length - 2) with
    | b0 :: hi :: lo :: width :: data =>
      (opOf (b0.toNat / 2 % 4)).map fun op =>
        { node := ⟨b0.toNat / 8, by omega⟩, op := op, parity := b0.getLsbD 0,
          regAddr := hi.setWidth 16 <<< 8 ||| lo.setWidth 16, width := width, data := data }
    | _ => none

/-- The status code and reason of a reply, as byte 1 (section 10.8). -/
def statusByte : Reply → Byte
  | .data _ => 0x20
  | .done => 0x40
  | .hold => 0x60
  | .deny reason => 0x80 ||| reason.setWidth 8
  | .present _ _ => 0xA0

/-- What follows byte 1 of a reply, before the check (section 10.8). -/
def replyPayload : Reply → List Byte
  | .data bytes => bytes
  | .present nodeType last => [nodeType, BitVec.ofNat 8 last.toNat]
  | _ => []

/-- A reply frame before its check (R101). -/
def replyBody (n : Node) (echo : Bool) (r : Reply) : List Byte :=
  BitVec.ofNat 8 (n.val * 8 + echo.toNat * 4) :: statusByte r :: replyPayload r

/-- The reply frame a node sends (R101, R102). -/
def replyBytes (n : Node) (echo : Bool) (r : Reply) : List Byte := replyBody n echo r ++ checkBytes (replyBody n echo r)

/-- The reply of a node that does not execute: HOLD or DENY by its will, else `r` (R115, R116). -/
def willReply (will : NodeWill) (r : Reply) : Reply :=
  match will with
  | .obey _ => r
  | .hold => .hold
  | .deny reason => .deny reason

/-- A WRITE executed by the node. -/
def executeWrite (n : NodeModel) (c : Command) : NodeModel := { n with executed := n.executed ++ [(c.regAddr, c.data)] }

/-- A node's answer to a command addressed to it (R115, R116). -/
def answerCommand (n : NodeModel) (will : NodeWill) (c : Command) : NodeModel × Reply :=
  match c.op with
  | .probe => (n, .present n.nodeType n.lastExecuted)
  | .read =>
    match will with
    | .obey contents => (n, .data contents)
    | _ => (n, willReply will .done)
  | .write =>
    if c.parity = n.lastExecuted then (n, .done)
    else
      match will with
      | .obey _ => ({ executeWrite n c with lastExecuted := c.parity }, .done)
      | _ => (n, willReply will .done)

/-- A node receives a frame: ignored on a bad check or when it is for another node, executed without reply when it is a
broadcast WRITE, answered with one reply when it is for the node itself (R115). -/
def nodeReceive (n : NodeModel) (will : NodeWill) (frame : List Byte) : NodeModel × Option (List Byte) :=
  match parseCommand frame with
  | none => (n, none)
  | some c =>
    if c.node = 0 then (if c.op = .write then executeWrite n c else n, none)
    else if c.node ≠ n.addr then (n, none)
    else
      let answer := answerCommand n will c
      (answer.1, some (replyBytes n.addr c.parity answer.2))

/-- BRST asserted on the node's branch: its last executed parity becomes 1 (R116, R143). -/
def nodeBrst (n : NodeModel) : NodeModel := { n with lastExecuted := true }

end Sys2Proof.Machine
end

