-- ==== Sys2Proof/Safety.lean ====
section
/-! DEFINITION. What holds of the part between any two events, in the terms the claims use. Each predicate is an invariant of its
own: every step keeps it. -/

namespace Sys2Proof.Machine

/-! ## The Request Table -/

/-- A slot holds at most one live entry; a reservation names a FREE slot and no two name the same; a master is at most once on the
waiting list, and not there while it holds a reservation; while a master waits, the window is not 0 and no slot is open
(R1, R16, R18). -/
structure TableOk (s : State) : Prop where
  slots_nodup    : (s.entries.map Entry.slot).Nodup
  reserved_free  : ∀ m r, s.reservations.get m = some r → slotFree s r.slot = true
  reserved_once  : ∀ m n r q, s.reservations.get m = some r → s.reservations.get n = some q → r.slot = q.slot → m = n
  waiting_nodup  : s.waiting.Nodup
  waiting_apart  : ∀ m, m ∈ s.waiting → s.reservations.get m = none
  waiting_window : s.waiting ≠ [] → s.resWindow ≠ 0
  waiting_closed : s.waiting ≠ [] → ∀ k, slotOpen s k = false

/-- Two live entries that one access of one master could match exactly, or that are both word-fetch READs of one word
(R5, R27). -/
def sameRequest (e f : Entry) : Prop :=
  e.master = f.master ∧ e.kind = f.kind ∧
    ((e.hostAddr = f.hostAddr ∧ e.width = f.width ∧ (e.kind = .write → e.writeData = f.writeData)) ∨
      (e.kind = .read ∧ e.wordFetch = true ∧ f.wordFetch = true ∧ wordAddr e.hostAddr = wordAddr f.hostAddr))

/-- No two live entries are the same request (R5, R27). -/
def RequestsDistinct (s : State) : Prop := s.entries.Pairwise (fun e f => ¬ sameRequest e f)

/-- Every entry names a node 1–31 (R2), and a PENDING entry's node is not OFFLINE (R9, R86). -/
def PendingNodesAnswer (s : State) : Prop :=
  ∀ e ∈ s.entries, e.node ≠ 0 ∧ (isPending e = true → nodeIsOffline (unitOf s e.branch) e.node = false)

/-- The posted-ahead count of every PENDING entry is at most the fill of its branch's queue (R70). -/
def PostedAheadBounded (s : State) : Prop :=
  ∀ e ∈ s.entries, isPending e = true → e.postedAhead ≤ (unitOf s e.branch).queue.length

/-! ## The Record Queue -/

/-- At most 16 records, numbered consecutively up to the counter (R147, R149). -/
def RecordsDense (s : State) : Prop :=
  s.records.length ≤ Config.recordDepth ∧
    ∀ i (h : i < s.records.length), (s.records[i]).seq = s.recordCounter - BitVec.ofNat 8 (s.records.length - i)

/-! ## One branch -/

/-- Entries of branch `x` in state PENDING or ISSUED. -/
def workOf (s : State) (x : Branch) : List Entry := s.entries.filter (fun e => e.branch = x && (isPending e || isIssued e))

/-- The shape of a branch's column: at most 8 posted records; the engine OFF exactly while HELD; while HELD no posted record, probe,
parked transaction, PENDING or ISSUED entry; while QUIESCED no posted record, parked transaction, PENDING or ISSUED entry, and the
engine IDLE; a head in flight exists (R65, R96, R138, R140, R142). -/
structure ColumnOk (s : State) (x : Branch) : Prop where
  fill         : (unitOf s x).queue.length ≤ Config.postedDepth
  off_iff_held : (unitOf s x).engine = .off ↔ (unitOf s x).ctrl = .held
  head_exists  : (unitOf s x).headInFlight = true → (unitOf s x).queue ≠ []
  held_empty   : (unitOf s x).ctrl = .held →
    (unitOf s x).queue = [] ∧ (unitOf s x).probeSet = [] ∧ (unitOf s x).park = none ∧ workOf s x = []
  quiet_empty  : (unitOf s x).ctrl = .quiesced →
    (unitOf s x).queue = [] ∧ (unitOf s x).engine = .idle ∧ (unitOf s x).park = none ∧ workOf s x = []

/-- Every branch's column has its shape. -/
def ColumnsOk (s : State) : Prop := ∀ x, ColumnOk s x

/-! ## Transactions in flight -/

/-- The transactions in flight on a branch: the current one and the parked one (R96, R117). -/
def inFlight (u : BranchUnit) : List Txn := (currentTxn u.engine).toList ++ (u.park.map Parked.tx).toList

/-- The slots that deferred transactions of the list come from. -/
def flightSlots (txs : List Txn) : List Slot :=
  txs.filterMap (fun tx => match tx.source with | .slot k => some k | _ => none)

/-- How many transactions of the list come from the posted head. -/
def flightPosted (txs : List Txn) : Nat := txs.countP (fun tx => tx.source = .posted)

/-- Every piece of work in progress is accounted for: the head is in flight exactly when one transaction comes from it, a deferred
transaction comes from an ISSUED entry of its own branch, and each ISSUED entry has exactly one (R6, R68, R97). -/
structure FlightsOk (s : State) : Prop where
  posted : ∀ x, flightPosted (inFlight (unitOf s x)) = if (unitOf s x).headInFlight then 1 else 0
  slots  : ∀ x k, (flightSlots (inFlight (unitOf s x))).count k =
    s.entries.countP (fun e => e.slot = k && e.branch = x && isIssued e)

/-- No two transactions in flight on a branch are for one node: while one is parked, nothing else goes to its node (section 5.2). -/
def NodesApart (s : State) : Prop :=
  ∀ x p tx, (unitOf s x).park = some p → currentTxn (unitOf s x).engine = some tx → p.tx.node ≠ tx.node

/-! ## Claim timers -/

/-- A READY entry has a running claim timer unless the claim window is 0 (R36). -/
def ClaimTimersRun (s : State) : Prop :=
  s.claimWindow ≠ 0 → ∀ e ∈ s.entries, ∀ o d, e.state ≠ .ready o d none

/-! ## Timers -/

/-- No timer stands at zero between two events: it expires in the event that brings it there (R159). -/
structure TimersAboveZero (s : State) : Prop where
  claims       : ∀ e ∈ s.entries, ∀ o d, e.state ≠ .ready o d (some 0)
  reservations : ∀ m r, s.reservations.get m = some r → r.remaining ≠ 0
  windows      : ∀ x tx, (unitOf s x).engine ≠ .await tx 0
  backoffs     : ∀ x tx, (unitOf s x).engine ≠ .backoff tx 0
  parks        : ∀ x tx, (unitOf s x).park ≠ some { tx := tx, delay := .waiting 0 }

/-- The timer runs and one tick brings it to zero (R159). -/
def ReachesZero (s : State) : Timer → Prop
  | .claim k => ∃ e ∈ s.entries, e.slot = k ∧ ∃ o d n, e.state = .ready o d (some n) ∧ n ≤ 1
  | .reservation m => ∃ r, s.reservations.get m = some r ∧ r.remaining ≤ 1
  | .replyWindow x => ∃ tx n, (unitOf s x).engine = .await tx n ∧ n ≤ 1
  | .parkedHold x => ∃ tx n, (unitOf s x).park = some { tx := tx, delay := .waiting n } ∧ n ≤ 1
  | .backoffHold x => ∃ tx n, (unitOf s x).engine = .backoff tx n ∧ n ≤ 1

/-! ## Settings -/

/-- The settings of one branch stay in their ranges (R90, R99, R122). -/
def settingsInRange (t : BranchSettings) : Prop :=
  1 ≤ t.postedAllowance ∧ t.postedAllowance ≤ 15 ∧ 1 ≤ t.offlineThreshold ∧ t.offlineThreshold ≤ 15 ∧
    1 ≤ t.replyWindow ∧ t.replyWindow ≤ 255 ∧ 1 ≤ t.holdDelay ∧ t.holdDelay ≤ 255 ∧ t.resendLimit ≤ 7 ∧
    1 ≤ t.holdLimit ∧ t.holdLimit ≤ 1023

/-- Every setting stays in its range (R13, R21, R36, R46, R159), with those of each branch. -/
def SettingsInRange (s : State) : Prop :=
  (∀ m, s.quotas.get m ≤ 12) ∧ s.claimWindow ≤ 4095 ∧ s.resWindow ≤ 255 ∧ 4 ≤ s.divisor ∧ s.divisor ≤ 50 ∧
    (∀ n : Fin 16, (s.apertures[n.val]).sizeCode ≤ 8) ∧ ∀ x, settingsInRange (unitOf s x).settings

/-- The scheduler's counts and every node's counts stay in their ranges (R90, R91, R121). -/
def CountsInRange (s : State) : Prop :=
  ∀ x, (unitOf s x).postedRun ≤ 15 ∧ (unitOf s x).probeDeferral ≤ 8 ∧
    ∀ n, (nodeOf (unitOf s x) n).failures ≤ 15 ∧ (nodeOf (unitOf s x) n).dropped ≤ 255

/-- A probe set holds addresses 1–31, none twice, kept lowest first (R87, R129). -/
def ProbeSetsOk (s : State) : Prop := ∀ x, (unitOf s x).probeSet.Pairwise (· < ·) ∧ 0 ∉ (unitOf s x).probeSet

/-! ## Drains -/

/-- The five conditions of drained, in the words of R138. -/
def Drained (s : State) (x : Branch) : Prop :=
  (unitOf s x).queue = [] ∧ (∀ e ∈ s.entries, e.branch = x → isPending e = false ∧ isIssued e = false) ∧
    (unitOf s x).probeSet = [] ∧ (unitOf s x).park = none ∧ (unitOf s x).engine = .idle

/-- No DRAINING branch is drained: the event that met the last condition completed the drain (R139). -/
def NoDrainLeftOpen (s : State) : Prop := ∀ x, (unitOf s x).ctrl = .draining → ¬ Drained s x

/-- What a drain completion leaves: branch `x` QUIESCED and QUIESCED_x set (R139). -/
def drainedState (x : Branch) (s : State) : State :=
  { s with branches := s.branches.set x { unitOf s x with ctrl := .quiesced }, quiescedFlags := s.quiescedFlags.set x true }

/-! ## Handing slots over -/

/-- From `s` to `t` the slots are handed over one at a time, in the list's order: the i-th goes to the i-th waiting master, who
leaves the list with a full reservation on it; slots beyond the list become open; no other reservation changes (R12, R18). -/
def HandedOver (slots : List Slot) (s t : State) : Prop :=
  t.waiting = s.waiting.drop slots.length ∧
    (∀ (i : Nat) m k, s.waiting[i]? = some m → slots[i]? = some k →
      t.reservations.get m = some { slot := k, remaining := s.resWindow * 4 }) ∧
    ∀ m, m ∉ s.waiting.take slots.length → t.reservations.get m = s.reservations.get m

/-! ## The repeat search and the decode, in the manual's words -/

/-- The bytes an access of width `w` carries on the lanes it occupies (R157). -/
def carried (a : Access) (w : Width) : List Byte := offLanes a.addr.toNat a.lanes w.bytes

/-- An exact match in the words of R26, or a word-fetch alias in the words of R27. -/
def Matches (a : Access) (w : Width) (e : Entry) : Prop :=
  e.master = a.master ∧ e.kind = a.kind ∧
    ((e.hostAddr = a.addr ∧ e.width = w ∧ (e.kind = .write → e.writeData = carried a w)) ∨
      (e.kind = .read ∧ e.wordFetch = true ∧ a.addr.toNat / 4 = e.hostAddr.toNat / 4))

/-- The first entry in acceptance order that the access matches (R28). -/
def OldestMatch (a : Access) (w : Width) (s : State) (e : Entry) : Prop :=
  Matches a w e ∧ ∃ older younger, s.entries = older ++ e :: younger ∧ ∀ f ∈ older, ¬ Matches a w f

/-- Length of an aperture's window (R46). -/
def windowLength (p : Aperture) : Nat := 256 * 2 ^ p.sizeCode

/-- A base rounded down to a multiple of the aperture's size (R47). -/
def roundedBase (p : Aperture) (base : Nat) : Nat := base - base % windowLength p

/-- The aperture is enabled and its window contains the address (R48). -/
def ContainsAddr (p : Aperture) (addr : Nat) : Prop :=
  p.enable = true ∧ roundedBase p (p.basePage.toNat * 256) ≤ addr ∧
    addr < roundedBase p (p.basePage.toNat * 256) + windowLength p

/-- Aperture `n` is the lowest-numbered one that contains the address (R48). -/
def LowestContaining (s : State) (addr : Nat) (n : Fin 16) : Prop :=
  ContainsAddr s.apertures[n.val] addr ∧ ∀ k : Fin 16, k < n → ¬ ContainsAddr s.apertures[k.val] addr

/-- The aperture permits the direction (R50). -/
def Permits (p : Aperture) (k : Kind) : Prop := (k = .read → p.readOk = true) ∧ (k = .write → p.writeOk = true)

/-- The translation of a host address through an aperture (R49). -/
def translated (p : Aperture) (addr : Nat) : RegAddr :=
  BitVec.ofNat 16 (roundedBase p p.regBase.toNat + (addr - roundedBase p (p.basePage.toNat * 256)))

/-- The node register address of an access: a word-fetch read takes the translation of its aligned word (R49, R51). -/
def registerOf (p : Aperture) (a : Access) : RegAddr :=
  if a.kind = .read ∧ p.wordFetch = true then translated p (a.addr.toNat - a.addr.toNat % 4) else translated p a.addr.toNat

/-- The fetch width of an access: 4 for a word-fetch read, else its own (R51). -/
def fetchOf (p : Aperture) (a : Access) (w : Width) : Width := if a.kind = .read ∧ p.wordFetch = true then .w4 else w

/-! ## How far an access gets in admission -/

/-- The access is not decided before the repeat search, and has width `w` (R25). -/
def ReachesSearch (a : Access) (w : Width) (s : State) : Prop :=
  s.phase = .run ∧ alignedWidth a = some w ∧ 4096 ≤ a.addr.toNat

/-- The access is a new request (R29). -/
def ReachesDecode (a : Access) (w : Width) (s : State) : Prop := ReachesSearch a w s ∧ ∀ e ∈ s.entries, ¬ Matches a w e

/-- The access is decoded by aperture `n` without a decode fault (R50). -/
def ReachesBranch (a : Access) (w : Width) (n : Fin 16) (s : State) : Prop :=
  ReachesDecode a w s ∧ LowestContaining s a.addr.toNat n ∧ Permits s.apertures[n.val] a.kind ∧
    (a.kind = .read → s.apertures[n.val].node ≠ 0)

/-- The access is decoded by aperture `n` to an ACTIVE branch and a node that is not OFFLINE (R53, R54). -/
def ReachesRoute (a : Access) (w : Width) (n : Fin 16) (s : State) : Prop :=
  ReachesBranch a w n s ∧ (unitOf s s.apertures[n.val].branch).ctrl = .active ∧
    nodeIsOffline (unitOf s s.apertures[n.val].branch) s.apertures[n.val].node = false

/-- A posted-route write in the words of R57: a write to node 0, or to a node 1–31 through a POSTED aperture. -/
def IsPosted (a : Access) (p : Aperture) : Prop := a.kind = .write ∧ (p.node = 0 ∨ p.cls = .posted)

/-- The posted record of a write accepted through an aperture (R58). -/
def postedOf (a : Access) (w : Width) (p : Aperture) : PostedRecord :=
  { master := a.master, hostAddr := a.addr, node := p.node, regAddr := registerOf p a, width := w, data := carried a w,
    holdsUsed := 0, resendsUsed := 0 }

/-- The entry a deferred request creates in slot `k` behind `fill` posted records (R3, R5, R59). -/
def entryOf (a : Access) (w : Width) (p : Aperture) (fill : Nat) (k : Slot) : Entry :=
  { slot := k, master := a.master, kind := a.kind, hostAddr := a.addr, width := w,
    writeData := if a.kind = .write then carried a w else [], branch := p.branch, node := p.node,
    regAddr := registerOf p a, fetchWidth := fetchOf p a w, wordFetch := p.wordFetch, errorMode := p.errorMode,
    postedAhead := fill, state := .pending }

/-- An open slot: no live entry holds it and no reservation record names it (R1). -/
def OpenSlot (s : State) (k : Slot) : Prop := (∀ e ∈ s.entries, e.slot ≠ k) ∧ ∀ m r, s.reservations.get m = some r → r.slot ≠ k

/-- The lanes of a response without data: zero for a read, not driven for a write (R156). -/
def noData : Kind → Option Word
  | .read => some 0
  | .write => none

/-- The response and lanes of an access of width `w` answered as failed (Conventions, Responses). -/
def failedAnswer (a : Access) (w : Width) : ErrorMode → ResponseCode × Option Word
  | .report => (.fault, noData a.kind)
  | .absorb => (.complete, if a.kind = .read then some (onLanes a.addr.toNat (List.replicate w.bytes 0xFF)) else none)

/-- The response and lanes of a claim (R31 to R34). -/
def claimAnswer (a : Access) (w : Width) (e : Entry) (o : Outcome) (d : Option (List Byte)) : ResponseCode × Option Word :=
  if o = .ok then
    (.complete,
      if a.kind = .read then
        some (onLanes a.addr.toNat (if e.wordFetch then ((d.getD []).drop (a.addr.toNat % 4)).take w.bytes else d.getD []))
      else none)
  else failedAnswer a w e.errorMode

/-! ## The candidates of a choice event, in the manual's words -/

/-- A choice event may be taken: the engine is IDLE and the branch ACTIVE or DRAINING (R82). -/
def MayChoose (u : BranchUnit) : Prop := u.engine = .idle ∧ (u.ctrl = .active ∨ u.ctrl = .draining)

/-- The head of the queue is not one that a choice event drops (R83). -/
def NoOfflineHead (u : BranchUnit) : Prop :=
  u.headInFlight = true ∨ ∀ r, u.queue.head? = some r → nodeIsOffline u r.node = false

/-- K: the due transaction in the park slot (R84). -/
def IsK (u : BranchUnit) (tx : Txn) : Prop := u.park = some { tx := tx, delay := .due }

/-- P: the head record, not in flight and not for the parked node (R85). -/
def IsP (u : BranchUnit) (r : PostedRecord) : Prop :=
  u.queue.head? = some r ∧ u.headInFlight = false ∧ ∀ p, u.park = some p → p.tx.node ≠ r.node

/-- The two conditions D asks of a PENDING entry of the branch (R86). -/
def MayBeD (x : Branch) (s : State) (e : Entry) : Prop :=
  e.state = .pending ∧ e.branch = x ∧ e.postedAhead = 0 ∧ ∀ p, (unitOf s x).park = some p → p.tx.node ≠ e.node

/-- D: the oldest such entry (R86). -/
def IsD (x : Branch) (s : State) (e : Entry) : Prop :=
  MayBeD x s e ∧ ∃ older younger, s.entries = older ++ e :: younger ∧ ∀ f ∈ older, ¬ MayBeD x s f

/-- A member of the probe set that is not the parked node (R87). -/
def MayBeQ (u : BranchUnit) (n : Node) : Prop := n ∈ u.probeSet ∧ ∀ p, u.park = some p → p.tx.node ≠ n

/-- Q: the lowest such address (R87). -/
def IsQ (u : BranchUnit) (n : Node) : Prop := MayBeQ u n ∧ ∀ k, MayBeQ u k → n ≤ k

/-- Case 2 of R88 does not apply: the probe-deferral count has not reached 8, or there is no Q. -/
def NotCase2 (u : BranchUnit) : Prop := u.probeDeferral < 8 ∨ ∀ n, ¬ IsQ u n

/-- What the six cases of R88 choose, the first that applies. -/
def Chosen (x : Branch) (s : State) : Choice → Prop
  | .parked tx => IsK (unitOf s x) tx
  | .probe n =>
    IsQ (unitOf s x) n ∧ (∀ tx, ¬ IsK (unitOf s x) tx) ∧
      (8 ≤ (unitOf s x).probeDeferral ∨ ((∀ r, ¬ IsP (unitOf s x) r) ∧ ∀ e, ¬ IsD x s e))
  | .deferred e =>
    IsD x s e ∧ (∀ tx, ¬ IsK (unitOf s x) tx) ∧ NotCase2 (unitOf s x) ∧
      ((∀ r, ¬ IsP (unitOf s x) r) ∨ (unitOf s x).settings.postedAllowance ≤ (unitOf s x).postedRun)
  | .posted r =>
    IsP (unitOf s x) r ∧ (∀ tx, ¬ IsK (unitOf s x) tx) ∧ NotCase2 (unitOf s x) ∧
      ((∀ e, ¬ IsD x s e) ∨ (unitOf s x).postedRun < (unitOf s x).settings.postedAllowance)
  | .nothing =>
    (∀ tx, ¬ IsK (unitOf s x) tx) ∧ (∀ r, ¬ IsP (unitOf s x) r) ∧ (∀ e, ¬ IsD x s e) ∧ ∀ n, ¬ IsQ (unitOf s x) n

/-- The record of a probe transaction to node `n` (R97). -/
def probeRecord (source : Source) (n : Node) : Txn := ⟨source, n, .probe, 0, .w1, [], false, 0, 0⟩

/-! ## Ends of transactions -/

/-- The engine of branch `x` is IDLE, with no reception in progress (R106, R169). -/
def idled (x : Branch) (s : State) : State := onUnit x (fun u => { dropReception u with engine := .idle }) s

/-- The end of the current transaction as R111 orders it: the engine IDLE, the source served, then the Node Table, and a drain
that this completes (R139). -/
def Ended (x : Branch) (tx : Txn) (en : TxEnd) (s : State) : State :=
  completeDrain x (endNode x tx en (endSource x tx en (idled x s)))

/-- The end a valid reply other than HOLD makes (R106). -/
def endOf : Reply → Option TxEnd
  | .data bytes => some (.data bytes)
  | .done => some .done
  | .hold => none
  | .deny reason => some (.denied reason)
  | .present nodeType last => some (.present nodeType last)

/-! ## Replies that fit -/

/-- The statuses that fit a transaction's operation, with the length DATA must have (R105). -/
def Fits (tx : Txn) : Reply → Prop
  | .data bytes => tx.op = .read ∧ bytes.length = tx.width.bytes
  | .done => tx.op = .write
  | .hold => tx.op = .read ∨ tx.op = .write
  | .deny reason => (tx.op = .read ∨ tx.op = .write) ∧ reason ≠ 0
  | .present _ _ => tx.op = .probe

/-- A frame is the reply `r` to `tx`, received at `rate`: whole, its end mark in its place, the bytes of the layout with the node's
address and the parity sent, sent at the rate it is received at, and of a status that fits (R98, R105, R169). -/
def IsReply (tx : Txn) (rate : LineRate) (f : RxFrame) (r : Reply) : Prop :=
  f.endMark = true ∧ rate.kbps * f.rate.divisor = f.rate.kbps * rate.divisor ∧ f.bytes = replyBytes tx.node tx.parity r ∧
    Fits tx r

/-- A frame is being received as a reply to `tx` on branch `x`. -/
def Receiving (s : State) (x : Branch) (tx : Txn) (window : Nat) (rate : LineRate) : Prop :=
  (unitOf s x).engine = .await tx window ∧ (unitOf s x).receiver = .receiving rate

/-! ## Words of the views -/

/-- The value of a word that holds each value at its lowest bit and zero in every bit no field covers. -/
def placed : List (Nat × Nat) → Nat
  | [] => 0
  | (lo, v) :: rest => 2 ^ lo * v + placed rest

/-- The value of a one-bit field. -/
def bit (b : Bool) : Nat := if b then 1 else 0

/-- `w` carries the bytes `d` on the lanes of the addresses from `a` upward, and zero on the other lanes (R157). -/
def OnLanes (a : Nat) (d : List Byte) (w : Word) : Prop :=
  (∀ (j : Nat) (h : j < d.length), (w >>> (8 * ((a + j) % 4))).setWidth 8 = d[j]) ∧
    ∀ lane < 4, (∀ j < d.length, (a + j) % 4 ≠ lane) → (w >>> (8 * lane)).setWidth 8 = (0 : Byte)

/-- The codes of the request table's, the branches' and the records' words, as R158 and section 10.8 list them. -/
def CodesAsListed : Prop :=
  (widthCode .w1 = 0 ∧ widthCode .w2 = 1 ∧ widthCode .w4 = 2) ∧
  (branchCode .a = 0 ∧ branchCode .b = 1 ∧ branchCode .c = 2 ∧ branchCode .d = 3) ∧
  (outcomeCode .ok = 1 ∧ outcomeCode .nodeDenied = 2 ∧ outcomeCode .busyLimit = 3 ∧ outcomeCode .noReply = 4 ∧
    outcomeCode .nodeOffline = 5 ∧ outcomeCode .branchReset = 6) ∧
  (causeCode .misaligned = 1 ∧ causeCode .undefinedRegister = 2 ∧ causeCode .unmapped = 3 ∧ causeCode .notPermitted = 4 ∧
    causeCode .broadcastRead = 5 ∧ causeCode .quotaZero = 6) ∧
  (ctrlCode .active = 0 ∧ ctrlCode .draining = 1 ∧ ctrlCode .quiesced = 2 ∧ ctrlCode .held = 3) ∧
  (sourceCode .posted = 0 ∧ (∀ k, sourceCode (.slot k) = 1) ∧ sourceCode .probeSet = 2 ∧ sourceCode .resync = 3) ∧
  (sourceSlot .posted = 0 ∧ (∀ k, sourceSlot (.slot k) = k.val) ∧ sourceSlot .probeSet = 0 ∧ sourceSlot .resync = 0) ∧
  (opCode .read = 1 ∧ opCode .write = 2 ∧ opCode .probe = 3) ∧
  (nodeStateCode .unknown = 0 ∧ nodeStateCode .online = 1 ∧ nodeStateCode .suspect = 2 ∧ nodeStateCode .offline = 3) ∧
  (parityCode (.known false) = 0 ∧ parityCode (.known true) = 1 ∧ parityCode .unsure = 2)

/-- The fields of the current transaction's words: the engine's code, the transaction and the time remaining (section 10.8). -/
def Carries (u : BranchUnit) (code : Nat) (tx : Txn) (left : Nat) : Prop :=
  (∃ rate, u.engine = .transmit tx rate ∧ code = 2 ∧ left = 0) ∨ (u.engine = .await tx left ∧ code = 3) ∨
    (u.engine = .backoff tx left ∧ code = 4)

/-- Code of a record's kind and the fields of its words at 0x034, 0x038 and 0x03C (R148, section 10.8). -/
def recordFields : RecordBody → Nat × List (Nat × Nat) × List (Nat × Nat) × List (Nat × Nat)
  | .accessFault cause m addr => (1, [(0, addr.toNat), (24, m.val)], [(0, causeCode cause)], [])
  | .claimExpired m k addr kind o =>
    (2, [(0, addr.toNat), (24, m.val)], [(24, k.val)], [(0, outcomeCode o), (4, bit (kind = .write))])
  | .postedDropped x n m addr (.nodeDenied reason) =>
    (3, [(0, addr.toNat), (24, m.val)], [(0, 1), (4, reason.toNat), (8, branchCode x), (16, n.val)], [])
  | .postedDropped x n m addr .busyLimit => (3, [(0, addr.toNat), (24, m.val)], [(0, 2), (8, branchCode x), (16, n.val)], [])
  | .postedDropped x n m addr .noReply => (3, [(0, addr.toNat), (24, m.val)], [(0, 3), (8, branchCode x), (16, n.val)], [])
  | .postedFlushed x n => (4, [], [(8, branchCode x)], [(8, n)])
  | .nodeOffline x n => (5, [], [(8, branchCode x), (16, n.val)], [])
  | .nodeRecovered x n => (6, [], [(8, branchCode x), (16, n.val)], [])
  | .masterAbandoned m freed marked => (7, [(24, m.val)], [], [(8, freed), (16, marked)])

/-- The counts a record carries are in the range R148 gives them. -/
def RecordCountsInRange : RecordBody → Prop
  | .postedFlushed _ n => n ≤ 8
  | .masterAbandoned _ freed marked => freed ≤ 12 ∧ marked ≤ 12
  | _ => True

/-! ## The posted head's counts -/

/-- A posted transaction's counts stand in its queue's head record, and in no other; a transaction of another source changes no
record (R68). -/
def queueFollowing (tx : Txn) (q : List PostedRecord) : List PostedRecord :=
  match tx.source, q with
  | .posted, r :: rest => { r with holdsUsed := tx.holdsUsed, resendsUsed := tx.resendsUsed } :: rest
  | .posted, [] => []
  | .slot _, q => q
  | .probeSet, q => q
  | .resync, q => q

/-! ## Expiries as commands -/

/-- The row of the table that is the expiry of a timer on its own. -/
def rowOf : Timer → Instr
  | .claim k => .claimTimerExpiry k
  | .reservation m => .reservationExpiry m
  | .replyWindow x => .replyWindowExpiry x
  | .parkedHold x => .parkedHoldDelayExpiry x
  | .backoffHold x => .backoffHoldDelayExpiry x

/-! ## The master behind a command -/

/-- The access a host-port command is: its master and direction. The other commands come from no master. -/
def portOf : Instr → Option (Master × Kind)
  | .hostAccess a => some (a.master, a.kind)
  | .registerWrite m _ _ _ => some (m, .write)
  | .claimWindowWrite m _ => some (m, .write)
  | .reservationWindowWrite m _ => some (m, .write)
  | .attentionEnablesWrite m _ => some (m, .write)
  | .abandon m _ => some (m, .write)
  | .probe m _ _ => some (m, .write)
  | .revive m _ _ => some (m, .write)
  | .commandRefusedClear m => some (m, .write)
  | .quiesce m _ => some (m, .write)
  | .resume m _ => some (m, .write)
  | .hold m _ => some (m, .write)
  | .release m _ => some (m, .write)
  | .pop m => some (m, .write)
  | .overrunClear m => some (m, .write)
  | .quiescedClear m _ => some (m, .write)
  | .chipReset m => some (m, .write)
  | .unknownBranchCommand m _ _ => some (m, .write)
  | .chipResetEnd => none
  | .pinReset => none
  | .initialisationEnd => none
  | .claimTimerExpiry _ => none
  | .reservationExpiry _ => none
  | .choiceEvent _ => none
  | .sendComplete _ => none
  | .replyFrame _ _ => none
  | .replyWindowExpiry _ => none
  | .parkedHoldDelayExpiry _ => none
  | .backoffHoldDelayExpiry _ => none
  | .drainComplete _ => none
  | .rstNRelease => none
  | .startMark _ => none
  | .microsecondTick _ => none

/-- A width-4 write of `data` at an offset of the register window. -/
def regWrite (m : Master) (offset : Nat) (data : Word) : Access :=
  { master := m, kind := .write, addr := BitVec.ofNat 22 offset, widthCode := 2, lanes := data }

/-- The register write that carries a command of the window, where the command has a row of its own: its offset and its word
(section 10.8). -/
def writeOf : Instr → Option (Master × Nat × Word)
  | .claimWindowWrite m data => some (m, 0x014, data)
  | .reservationWindowWrite m data => some (m, 0x018, data)
  | .attentionEnablesWrite m data => some (m, 0x04C, data)
  | .abandon m target => some (m, 0x01C, BitVec.ofNat 32 target.val)
  | .probe m x n => some (m, 0x050, BitVec.ofNat 32 (branchCode x * 256 + n.val))
  | .revive m x n => some (m, 0x054, BitVec.ofNat 32 (branchCode x * 256 + n.val))
  | .commandRefusedClear m => some (m, 0x020, 1)
  | .quiesce m x => some (m, 0x200 + 0x40 * branchCode x, 1)
  | .resume m x => some (m, 0x200 + 0x40 * branchCode x, 2)
  | .hold m x => some (m, 0x200 + 0x40 * branchCode x, 3)
  | .release m x => some (m, 0x200 + 0x40 * branchCode x, 4)
  | .pop m => some (m, 0x040, 1)
  | .overrunClear m => some (m, 0x048, 2)
  | .quiescedClear m flags => some (m, 0x048, flags.setWidth 32 <<< 4)
  | .chipReset m => some (m, 0x004, 1)
  | .unknownBranchCommand m x code => some (m, 0x200 + 0x40 * branchCode x, code.setWidth 32)
  | _ => none

end Sys2Proof.Machine
end

