-- ==== Sys2Proof/WellFormed.lean ====
section
/-! DEFINITION. Which terms of `Instr` are events of their row. The meaning of a command is total and does not
rest on these checks; they say which row an access or a write belongs to. -/

namespace Sys2Proof

/-- The register offsets whose write has a row of its own in the opcode table: chip reset, claim window,
reservation window, ABANDON, command-refused flag, POP, attention status and enables, PROBE, REVIVE, and the
four branch command fields. -/
def hasOwnRow (offset : Nat) : Bool :=
  [0x004, 0x014, 0x018, 0x01C, 0x020, 0x040, 0x048, 0x04C, 0x050, 0x054, 0x200, 0x240, 0x280, 0x2C0].contains offset

/-- A 4-byte write inside the register window belongs to REGISTER_WRITE or to a row of its own. -/
def isRegisterWrite (a : Access) : Bool :=
  a.kind = .write ∧ a.addr.toNat < 4096 ∧ a.widthCode = 2

/-- HOST_ACCESS takes every access outside the commands and settings. -/
def Access.wf (a : Access) : Bool := !isRegisterWrite a

/-- A frame is sent at some positive rate. -/
def RxFrame.wf (f : RxFrame) : Bool := 0 < f.rate.kbps ∧ 0 < f.rate.divisor

/-- The check of each row's operands. Every other operand is bounded by its type. -/
def Instr.wf : Instr → Bool
  | .hostAccess a => a.wf
  | .registerWrite _ offset widthCode _ => !(widthCode = 2 && hasOwnRow offset.toNat)
  | .claimWindowWrite _ _ => true
  | .reservationWindowWrite _ _ => true
  | .attentionEnablesWrite _ _ => true
  | .abandon _ _ => true
  | .probe _ _ _ => true
  | .revive _ _ _ => true
  | .commandRefusedClear _ => true
  | .quiesce _ _ => true
  | .resume _ _ => true
  | .hold _ _ => true
  | .release _ _ => true
  | .pop _ => true
  | .overrunClear _ => true
  | .quiescedClear _ flags => flags ≠ 0
  | .chipReset _ => true
  | .chipResetEnd => true
  | .pinReset => true
  | .initialisationEnd => true
  | .claimTimerExpiry _ => true
  | .reservationExpiry _ => true
  | .choiceEvent _ => true
  | .sendComplete _ => true
  | .replyFrame _ f => f.wf
  | .replyWindowExpiry _ => true
  | .parkedHoldDelayExpiry _ => true
  | .backoffHoldDelayExpiry _ => true
  | .drainComplete _ => true
  | .rstNRelease => true
  | .startMark _ => true
  | .unknownBranchCommand _ _ code => !(code = 1 || code = 2 || code = 3 || code = 4)
  | .microsecondTick order => decide order.Nodup

end Sys2Proof
end

