-- ==== Sys2Proof/Certificates/Slice0/Obligations.lean ====
section
/-! DEFINITION. The statements for the provers. A next state is written as the old one with the fields that change, so every
field not named is unchanged. -/

open Sys2Proof Sys2Proof.Machine

/-! ## The queue of commands -/

/-- The model's own step (notes/assumptions/2): the command at the front is carried out on the state with the rest of the queue;
with no command waiting nothing happens. -/
def Obligations.StepTakesTheFrontCommand : Prop :=
  (∀ (c : Instr) (rest : List Instr) (s : State), s.pending = c :: rest → step s = exec c { s with pending := rest }) ∧
    ∀ s : State, s.pending = [] → step s = .next s

/-- Every command of the table is carried out in every state, and none adds to or takes from the queue (sections Conventions and
11.1: each event is taken whole). The queue is the model's own (notes/assumptions/2), and that a command answers next, with
nothing changed, also in a state in which its event does not arise is the model's choice (notes/assumptions/7). -/
def Obligations.EveryCommandCompletesAndKeepsTheQueue : Prop :=
  ∀ (c : Instr) (s : State), ∃ t, exec c s = .next t ∧ t.pending = s.pending

/-! ## Steps 1 to 3 of admission and the register window -/

/-- Step 1 (section 3.1): while the port is in RESET every access, commands included, is answered RETRY and changes nothing else. -/
def Obligations.AccessInResetIsRetried : Prop :=
  ∀ (c : Instr) (m : Master) (k : Kind) (s : State), portOf c = some (m, k) → s.phase ≠ .run →
    exec c s = .next (respond m .retry (noData k) s)

/-- R158: the codes name widths 1, 2 and 4, and code 11 faults whatever the address and direction; with it, step 2 of section 3.1:
an access whose address is not a multiple of its width faults. -/
def Obligations.WidthCodeStep : Prop :=
  (∀ (a : Access) (w : Width), alignedWidth a = some w ↔
    ((a.widthCode = 0b00#2 ∧ w = .w1) ∨ (a.widthCode = 0b01#2 ∧ w = .w2) ∨ (a.widthCode = 0b10#2 ∧ w = .w4)) ∧
      a.addr.toNat % w.bytes = 0) ∧
  (∀ (a : Access) (s : State), s.phase = .run → a.widthCode = 0b11#2 →
    exec (.hostAccess a) s =
      .next (respond a.master .fault (noData a.kind) (offer (.accessFault .misaligned a.master a.addr) s))) ∧
  ∀ (a : Access) (w : Width) (s : State), s.phase = .run → widthOf a.widthCode = some w → a.addr.toNat % w.bytes ≠ 0 →
    exec (.hostAccess a) s =
      .next (respond a.master .fault (noData a.kind) (offer (.accessFault .misaligned a.master a.addr) s))

/-- R170: the identification register. -/
def Obligations.IdentificationRegister : Prop :=
  ∀ (a : Access) (s : State), a.addr = 0 →
    (s.phase = .run → a.kind = .read → a.widthCode = 0b10#2 →
      exec (.hostAccess a) s = .next (respond a.master .complete (some 0x00016140#32) s)) ∧
    (s.phase ≠ .run → exec (.hostAccess a) s = .next (respond a.master .retry (noData a.kind) s)) ∧
    (s.phase = .run → a.kind = .write → a.widthCode ≠ 0b11#2 →
      exec (.hostAccess a) s =
        .next (respond a.master .fault none (offer (.accessFault .undefinedRegister a.master a.addr) s)))

/-- Section 10.5 and R45's cases: a read of a listed register at width 4 completes and changes nothing else; an unlisted offset, a
width of 1 or 2, or a write to a register marked R faults and changes nothing but the Record Queue. -/
def Obligations.RegisterAccess : Prop :=
  ∀ (a : Access) (w : Width) (s : State), s.phase = .run → alignedWidth a = some w → a.addr.toNat < 4096 →
    (∀ r, regAt a.addr.toNat = some r → w = .w4 → a.kind = .read →
      exec (.hostAccess a) s = .next (respond a.master .complete (some (readReg r s)) s)) ∧
    ((∀ r, regAt a.addr.toNat = some r → w ≠ .w4 ∨ (a.kind = .write ∧ readOnly r = true)) →
      exec (.hostAccess a) s =
        .next (respond a.master .fault (noData a.kind) (offer (.accessFault .undefinedRegister a.master a.addr) s)))

/-- Section 10.5: software that reads a register of settings and writes the same word back changes nothing but the response. -/
def Obligations.SettingsWrittenBackAreUnchanged : Prop :=
  ∀ (m : Master) (o : BitVec 12) (r : Reg) (s : State), s.phase = .run → SettingsInRange s → TableOk s →
    regAt o.toNat = some r →
    (r = .divisor ∨ r = .quotas ∨ r = .claimWindow ∨ r = .resWindow ∨ r = .attentionEnables ∨
      (∃ n, r = .apertureWord0 n) ∨ (∃ n, r = .apertureWord1 n) ∨ (∃ x, r = .branchRates x) ∨ ∃ x, r = .branchLink x) →
    exec (.registerWrite m o 0b10#2 (readReg r s)) s = .next (respond m .complete none s)

/-- Section 10.6 with the layouts of section 10.8: the branch status word, the head record's, the current transaction's and the park
slot's words, the node words and the probe set word show the branch's column; a field of what does not exist reads as zero. -/
def Obligations.BranchViewsShowTheBranch : Prop :=
  CodesAsListed ∧ ∀ (x : Branch) (s : State),
    let u : BranchUnit := unitOf s x
    let word : Fin 9 → Nat := fun i => (readReg (.branchView x i) s).toNat
    (ColumnsOk s → CountsInRange s →
      (readReg (.branchStatus x) s).toNat =
        placed [(0, ctrlCode u.ctrl), (8, u.queue.length), (16, u.postedRun), (24, u.probeDeferral)]) ∧
    (u.queue = [] → word 0 = 0 ∧ word 1 = 0 ∧ word 2 = 0 ∧ word 3 = 0) ∧
    (∀ r rest, u.queue = r :: rest → r.resendsUsed ≤ 7 → r.holdsUsed ≤ 1023 → r.data.length ≤ 4 →
      word 0 =
        placed [(0, 1), (1, bit u.headInFlight), (2, r.master.val), (4, widthCode r.width), (8, r.resendsUsed), (16, r.node.val)] ∧
      word 1 = r.hostAddr.toNat ∧ word 2 = placed [(0, r.regAddr.toNat), (16, r.holdsUsed)] ∧
      OnLanes r.hostAddr.toNat r.data (readReg (.branchView x 3) s)) ∧
    (u.engine = .off → word 4 = 0 ∧ word 5 = 0 ∧ word 6 = 0) ∧
    (u.engine = .idle → word 4 = 1 ∧ word 5 = 0 ∧ word 6 = 0) ∧
    (∀ code tx left, Carries u code tx left → tx.resendsUsed ≤ 7 → tx.holdsUsed ≤ 1023 → left ≤ 2550 →
      word 4 =
        placed [(0, code), (3, 1), (4, sourceCode tx.source), (8, sourceSlot tx.source), (16, tx.node.val), (24, opCode tx.op),
          (28, bit tx.parity)] ∧
      word 5 = placed [(0, tx.resendsUsed), (16, tx.holdsUsed)] ∧ word 6 = left) ∧
    (u.park = none → word 7 = 0 ∧ word 8 = 0) ∧
    (∀ tx delay left, u.park = some { tx := tx, delay := delay } → tx.holdsUsed ≤ 1023 →
      ((delay = .due ∧ left = 0) ∨ (delay = .waiting left ∧ left ≤ 2550)) →
      word 7 =
        placed [(0, 1), (1, bit (delay = .due)), (4, sourceCode tx.source), (8, sourceSlot tx.source), (16, tx.node.val)] ∧
      word 8 = placed [(0, left), (16, tx.holdsUsed)]) ∧
    (CountsInRange s → ∀ n : Node, n ≠ 0 →
      let r := nodeOf u n
      (readReg (.nodeWord x n) s).toNat =
        placed [(0, nodeStateCode r.state), (4, r.failures), (8, parityCode r.parity), (10, bit r.nodeType.isSome),
          (16, (r.nodeType.map BitVec.toNat).getD 0), (24, r.dropped)]) ∧
    ∀ n : Node, (readReg (.probeSet x) s).getLsbD n.val = true ↔ n ∈ u.probeSet

/-- Section 10.8: a command with a row of its own is the width-4 write of its word at its offset, and REGISTER_WRITE is the write at
its offset.
The words of rows that name no data are the model's reading (notes/assumptions/11). -/
def Obligations.CommandRowsAreTheirRegisterWrites : Prop :=
  (∀ (c : Instr) (m : Master) (o : Nat) (w : Word) (s : State), writeOf c = some (m, o, w) →
    exec c s = exec (.hostAccess (regWrite m o w)) s) ∧
  ∀ (m : Master) (o : BitVec 12) (code : BitVec 2) (w : Word) (s : State),
    exec (.registerWrite m o code w) s =
      exec (.hostAccess { master := m, kind := .write, addr := BitVec.ofNat 22 o.toNat, widthCode := code, lanes := w }) s

/-! ## Repeats and claims -/

/-- R30: a repeat of a PENDING or ISSUED entry, abandoned or not, is answered RETRY and changes nothing. -/
def Obligations.RepeatOfUnfinishedEntryIsRetried : Prop :=
  ∀ (a : Access) (w : Width) (e : Entry) (s : State), ReachesSearch a w s → OldestMatch a w s e →
    (e.state = .pending ∨ ∃ abandoned, e.state = .issued abandoned) →
    exec (.hostAccess a) s = .next (respond a.master .retry (noData a.kind) s)

/-- Section 2.3: a repeat of a READY entry is answered from its kind, outcome and error mode; the entry ends, and its slot goes to
the head of the waiting list or becomes open. -/
def Obligations.RepeatOfReadyEntryClaimsIt : Prop :=
  ∀ (a : Access) (w : Width) (e : Entry) (o : Outcome) (d : Option (List Byte)) (left : Option Nat) (s : State),
    ReachesSearch a w s → OldestMatch a w s e → e.state = .ready o d left →
    ∃ t, exec (.hostAccess a) s = .next t ∧ HandedOver [e.slot] s t ∧
      t = { s with
        entries := s.entries.filter (fun f => f.slot ≠ e.slot), waiting := t.waiting, reservations := t.reservations,
        response := some { master := a.master, code := (claimAnswer a w e o d).1, lanes := (claimAnswer a w e o d).2 } }

/-! ## Decode and the state of the branch and the node -/

/-- Section 3.3: the three decode faults, in their order, whatever the branch, the node or the error mode. -/
def Obligations.DecodeFaults : Prop :=
  ∀ (a : Access) (w : Width) (s : State), ReachesDecode a w s →
    ((∀ n : Fin 16, ¬ ContainsAddr s.apertures[n.val] a.addr.toNat) →
      exec (.hostAccess a) s =
        .next (respond a.master .fault (noData a.kind) (offer (.accessFault .unmapped a.master a.addr) s))) ∧
    ∀ n, LowestContaining s a.addr.toNat n →
      (¬ Permits s.apertures[n.val] a.kind →
        exec (.hostAccess a) s =
          .next (respond a.master .fault (noData a.kind) (offer (.accessFault .notPermitted a.master a.addr) s))) ∧
      (Permits s.apertures[n.val] a.kind → a.kind = .read → s.apertures[n.val].node = 0 →
        exec (.hostAccess a) s =
          .next (respond a.master .fault (noData a.kind) (offer (.accessFault .broadcastRead a.master a.addr) s)))

/-- Sections 3.4 and 3.5: answered as failed by a HELD branch, RETRY by a DRAINING or QUIESCED one; on an ACTIVE branch, posted work
for an OFFLINE node completes and is counted as dropped, deferred work is answered as failed. -/
def Obligations.BranchAndNodeStateAtAdmission : Prop :=
  ∀ (a : Access) (w : Width) (n : Fin 16) (p : Aperture) (s : State), ReachesBranch a w n s → p = s.apertures[n.val] →
    ((unitOf s p.branch).ctrl = .held →
      exec (.hostAccess a) s =
        .next (respond a.master (failedAnswer a w p.errorMode).1 (failedAnswer a w p.errorMode).2 s)) ∧
    ((unitOf s p.branch).ctrl = .draining ∨ (unitOf s p.branch).ctrl = .quiesced →
      exec (.hostAccess a) s = .next (respond a.master .retry (noData a.kind) s)) ∧
    ((unitOf s p.branch).ctrl = .active → nodeIsOffline (unitOf s p.branch) p.node = true → IsPosted a p →
      exec (.hostAccess a) s =
        .next (respond a.master .complete none
          (onUnit p.branch (onNode p.node (fun r => { r with dropped := min 255 (r.dropped + 1) })) s))) ∧
    ((unitOf s p.branch).ctrl = .active → nodeIsOffline (unitOf s p.branch) p.node = true → ¬ IsPosted a p →
      exec (.hostAccess a) s =
        .next (respond a.master (failedAnswer a w p.errorMode).1 (failedAnswer a w p.errorMode).2 s))

/-! ## The two routes -/

/-- Section 3.6, posted route: RETRY while the queue holds 8 records, else appended at the tail and COMPLETE; no entry's
posted-ahead count changes. -/
def Obligations.PostedRoute : Prop :=
  ∀ (a : Access) (w : Width) (n : Fin 16) (p : Aperture) (s : State), ReachesRoute a w n s → p = s.apertures[n.val] →
    IsPosted a p →
    (8 ≤ (unitOf s p.branch).queue.length → exec (.hostAccess a) s = .next (respond a.master .retry none s)) ∧
    ((unitOf s p.branch).queue.length < 8 →
      exec (.hostAccess a) s =
        .next (respond a.master .complete none
          (onUnit p.branch (fun u => { u with queue := u.queue ++ [postedOf a w p] }) s)))

/-- Sections 1.3, 1.4 and 3.6, deferred route: the quota check, then the master's reserved slot, else the lowest open slot, else
RETRY and the tail of the waiting list. -/
def Obligations.DeferredRoute : Prop :=
  ∀ (a : Access) (w : Width) (n : Fin 16) (p : Aperture) (s : State), ReachesRoute a w n s → p = s.apertures[n.val] →
    ¬ IsPosted a p →
    (s.quotas.get a.master = 0 →
      exec (.hostAccess a) s =
        .next (respond a.master .fault (noData a.kind) (offer (.accessFault .quotaZero a.master a.addr) s))) ∧
    (s.quotas.get a.master ≠ 0 → s.quotas.get a.master ≤ s.entries.countP (fun e => e.master = a.master) →
      exec (.hostAccess a) s = .next (respond a.master .retry (noData a.kind) s)) ∧
    (s.entries.countP (fun e => e.master = a.master) < s.quotas.get a.master →
      (∀ r, s.reservations.get a.master = some r →
        exec (.hostAccess a) s =
          .next (respond a.master .retry (noData a.kind)
            { s with
              entries := s.entries ++ [entryOf a w p (unitOf s p.branch).queue.length r.slot]
              reservations := s.reservations.set a.master none })) ∧
      (s.reservations.get a.master = none →
        (∀ k, OpenSlot s k → (∀ j < k, ¬ OpenSlot s j) →
          exec (.hostAccess a) s =
            .next (respond a.master .retry (noData a.kind)
              { s with entries := s.entries ++ [entryOf a w p (unitOf s p.branch).queue.length k] })) ∧
        ((∀ k, ¬ OpenSlot s k) →
          exec (.hostAccess a) s =
            .next (respond a.master .retry (noData a.kind)
              { s with
                waiting := if s.resWindow = 0 ∨ a.master ∈ s.waiting then s.waiting else s.waiting ++ [a.master] }))))

/-! ## Settings -/

/-- R163, with the fields of section 10.8: every setting a REGISTER_WRITE carries is stored at once, a code that names no value as the
table says; the command codes and node fields the rule calls refused are refused. -/
def Obligations.SettingsAreStoredAsCoded : Prop :=
  ∀ (m : Master) (w : Word) (s : State), s.phase = .run →
    (let v := (w.extractLsb' 0 6).toNat
     exec (.registerWrite m 0x008 0b10#2 w) s =
      .next (respond m .complete none { s with divisor := if v < 4 then 4 else if 50 < v then 50 else v })) ∧
    exec (.registerWrite m 0x010 0b10#2 w) s =
      .next (respond m .complete none
        { s with quotas := ⟨min 12 (w.extractLsb' 0 4).toNat, min 12 (w.extractLsb' 8 4).toNat,
                            min 12 (w.extractLsb' 16 4).toNat, min 12 (w.extractLsb' 24 4).toNat⟩ }) ∧
    (∀ n : Fin 16,
      exec (.registerWrite m (BitVec.ofNat 12 (0x100 + 8 * n.val)) 0b10#2 w) s =
        .next (respond m .complete none (onAperture n (fun a =>
          { a with
            enable := w.getLsbD 0
            cls := if w.getLsbD 1 then .deferred else .posted
            readOk := w.getLsbD 2
            writeOk := w.getLsbD 3
            errorMode := if w.getLsbD 4 then .absorb else .report
            wordFetch := w.getLsbD 5
            basePage := w.extractLsb' 8 14
            sizeCode := min 8 (w.extractLsb' 24 4).toNat }) s)) ∧
      exec (.registerWrite m (BitVec.ofNat 12 (0x104 + 8 * n.val)) 0b10#2 w) s =
        .next (respond m .complete none (onAperture n (fun a =>
          { a with
            regBase := w.extractLsb' 0 16
            node := ⟨(w.extractLsb' 16 5).toNat, (w.extractLsb' 16 5).isLt⟩
            branch := branchOfCode (w.extractLsb' 24 2).toNat }) s))) ∧
    (∀ x : Branch,
      exec (.registerWrite m (BitVec.ofNat 12 (0x208 + 0x40 * branchCode x)) 0b10#2 w) s =
        .next (respond m .complete none (onSettings x (fun t =>
          { t with
            bitRate := bitRateOf (min 4 (w.extractLsb' 0 3).toNat)
            postedAllowance := if w.extractLsb' 8 4 = 0 then 1 else (w.extractLsb' 8 4).toNat
            offlineThreshold := if w.extractLsb' 16 4 = 0 then 1 else (w.extractLsb' 16 4).toNat }) s)) ∧
      exec (.registerWrite m (BitVec.ofNat 12 (0x20C + 0x40 * branchCode x)) 0b10#2 w) s =
        .next (respond m .complete none (onSettings x (fun t =>
          { t with
            replyWindow := if w.extractLsb' 0 8 = 0 then 1 else (w.extractLsb' 0 8).toNat
            holdDelay := if w.extractLsb' 8 8 = 0 then 1 else (w.extractLsb' 8 8).toNat
            resendLimit := (w.extractLsb' 16 3).toNat
            holdLimit := if w.extractLsb' 20 10 = 0 then 1 else (w.extractLsb' 20 10).toNat }) s))) ∧
    (∀ (x : Branch) (code : BitVec 4), code ≠ 1 → code ≠ 2 → code ≠ 3 → code ≠ 4 →
      exec (.unknownBranchCommand m x code) s = .next (respond m .complete none { s with commandRefused := true })) ∧
    ∀ x : Branch,
      exec (.probe m x 0) s = .next (respond m .complete none { s with commandRefused := true }) ∧
      exec (.revive m x 0) s = .next (respond m .complete none { s with commandRefused := true })

/-- Sections 1.5 and 2.5: the two windows are stored as written. A non-zero claim window written while it was 0 gives every READY entry
without a running timer a full new one, and no running timer changes; a reservation window of 0 empties the waiting list, and no
reservation changes. -/
def Obligations.WindowWrites : Prop :=
  (∀ (m : Master) (w : Word) (s : State), s.phase = .run →
    exec (.claimWindowWrite m w) s =
      .next (respond m .complete none
        { s with
          claimWindow := (w.extractLsb' 0 12).toNat
          entries :=
            if s.claimWindow = 0 ∧ w.extractLsb' 0 12 ≠ 0 then
              s.entries.map (fun e =>
                match e.state with
                | .ready o d none => { e with state := .ready o d (some ((w.extractLsb' 0 12).toNat * 16)) }
                | _ => e)
            else s.entries })) ∧
  ∀ (m : Master) (w : Word) (s : State), s.phase = .run →
    exec (.reservationWindowWrite m w) s =
      .next (respond m .complete none
        { s with
          resWindow := (w.extractLsb' 0 8).toNat
          waiting := if w.extractLsb' 0 8 = 0 then [] else s.waiting })

/-- Section 10.6 with the layouts of section 10.8: the words of every slot, live or FREE, the waiting-list word and the reservation words
show the Request Table. -/
def Obligations.TableViewsShowTheTable : Prop :=
  CodesAsListed ∧ ∀ s : State,
    (∀ k : Slot, (∀ e ∈ s.entries, e.slot ≠ k) → ∀ i, readReg (.slotView k i) s = 0) ∧
    (∀ older e younger, TableOk s → s.entries = older ++ e :: younger →
      let word : Fin 6 → Nat := fun i => (readReg (.slotView e.slot i) s).toNat
      word 0 =
        placed [(0, match e.state with | .pending => 1 | .issued _ => 2 | .ready _ _ _ => 3), (4, e.master.val),
          (6, bit (e.kind = .write)), (7, bit (e.state = .issued true)), (8, widthCode e.width), (10, widthCode e.fetchWidth),
          (12, bit e.wordFetch), (13, bit (e.errorMode = .absorb)), (16, branchCode e.branch), (20, e.node.val), (28, older.length)] ∧
      (e.postedAhead ≤ 8 → word 1 = placed [(0, e.hostAddr.toNat), (24, e.postedAhead)]) ∧
      (e.writeData.length ≤ 4 → OnLanes e.hostAddr.toNat e.writeData (readReg (.slotView e.slot 3) s)) ∧
      (isReady e = false →
        word 2 = e.regAddr.toNat ∧ word 4 = 0 ∧ word 5 = placed [(27, bit (e.state = .pending)), (28, bit (e.kind = .write))]) ∧
      ∀ o d left, e.state = .ready o d left →
        word 2 =
          placed [(0, e.regAddr.toNat), (16, outcomeCode (outcomeName o)),
            (20, match o with | .nodeDenied reason => reason.toNat | _ => 0)] ∧
        (d = none → word 4 = 0) ∧
        (∀ bytes, d = some bytes → bytes.length ≤ 4 →
          OnLanes (if e.wordFetch ∧ e.kind = .read then e.hostAddr.toNat / 4 * 4 else e.hostAddr.toNat) bytes
            (readReg (.slotView e.slot 4) s)) ∧
        ((∀ n, left = some n → n ≤ 65520) →
          word 5 =
            placed [(0, left.getD 0), (28, bit (e.kind = .write)), (29, bit d.isSome), (30, bit (outcomeName o = .nodeDenied)),
              (31, bit left.isSome)])) ∧
    (TableOk s →
      (readReg .waitingList s).toNat =
        placed ((0, s.waiting.length) :: s.waiting.zipIdx.map (fun p => (8 + 2 * p.2, p.1.val)))) ∧
    ∀ m : Master,
      (s.reservations.get m = none → readReg (.reservation m) s = 0) ∧
      ∀ r, s.reservations.get m = some r → r.remaining ≤ 1020 →
        (readReg (.reservation m) s).toNat = placed [(0, 1), (8, r.slot.val), (16, r.remaining)]

/-- Section 9.5: the six enables are set at once, and ATTN is asserted exactly while an event is both true and enabled. -/
def Obligations.EnablesAndAttention : Prop :=
  (∀ (m : Master) (w : Word) (s : State), s.phase = .run →
    exec (.attentionEnablesWrite m w) s =
      .next (respond m .complete none
        { s with enables :=
            { recordPending := w.getLsbD 0, overrun := w.getLsbD 1,
              quiesced := ⟨w.getLsbD 4, w.getLsbD 5, w.getLsbD 6, w.getLsbD 7⟩ } })) ∧
  ∀ s : State, attn s = true ↔
    (s.records ≠ [] ∧ s.enables.recordPending = true) ∨ (s.overrun = true ∧ s.enables.overrun = true) ∨
      ∃ x, s.quiescedFlags.get x = true ∧ s.enables.quiesced.get x = true

/-! ## The Record Queue and the flags -/

/-- R152, and sections 9.2 and 9.3 for the offer beside it: POP removes the head record, if any, and changes neither the counter nor
the overrun flag; a POP and an offer in either order. -/
def Obligations.PopAndOffer : Prop :=
  (∀ (m : Master) (s : State), s.phase = .run →
    exec (.pop m) s = .next (respond m .complete none { s with records := s.records.tail })) ∧
  (∀ (body : RecordBody) (s : State), s.records.length < 16 →
    offer body s =
      { s with records := s.records ++ [{ seq := s.recordCounter, body := body }], recordCounter := s.recordCounter + 1 }) ∧
  (∀ (body : RecordBody) (s : State), 16 ≤ s.records.length → offer body s = { s with overrun := true }) ∧
  (∀ (body : RecordBody) (s : State), s.records.length = 16 →
    offer body (popRecord s) =
      { s with
        records := s.records.tail ++ [{ seq := s.recordCounter, body := body }], recordCounter := s.recordCounter + 1 } ∧
    popRecord (offer body s) = { s with records := s.records.tail, overrun := true }) ∧
  ∀ (body : RecordBody) (s : State), s.records = [] →
    popRecord (offer body s) = { s with recordCounter := s.recordCounter + 1 } ∧
    offer body (popRecord s) = { s with records := [{ seq := s.recordCounter, body := body }], recordCounter := s.recordCounter + 1 }

/-- Sections 7.7, 9.3, 9.5 and 10.5: a one clears a flag and a zero leaves it; RECORD_PENDING and the level of ATTN cannot be
written. -/
def Obligations.FlagsAreClearedByOnes : Prop :=
  ∀ (m : Master) (s : State), s.phase = .run →
    exec (.commandRefusedClear m) s = .next (respond m .complete none { s with commandRefused := false }) ∧
    exec (.overrunClear m) s = .next (respond m .complete none { s with overrun := false }) ∧
    (∀ flags : BitVec 4,
      exec (.quiescedClear m flags) s =
        .next (respond m .complete none
          { s with quiescedFlags :=
              ⟨s.quiescedFlags.a && !flags.getLsbD 0, s.quiescedFlags.b && !flags.getLsbD 1,
               s.quiescedFlags.c && !flags.getLsbD 2, s.quiescedFlags.d && !flags.getLsbD 3⟩ })) ∧
    ∀ w : Word,
      exec (.registerWrite m 0x020 0b10#2 w) s =
        .next (respond m .complete none { s with commandRefused := s.commandRefused && !w.getLsbD 0 }) ∧
      exec (.registerWrite m 0x048 0b10#2 w) s =
        .next (respond m .complete none
          { s with
            overrun := s.overrun && !w.getLsbD 1
            quiescedFlags :=
              ⟨s.quiescedFlags.a && !w.getLsbD 4, s.quiescedFlags.b && !w.getLsbD 5,
               s.quiescedFlags.c && !w.getLsbD 6, s.quiescedFlags.d && !w.getLsbD 7⟩ })

/-- Sections 7.7, 9.3, 9.5 and 9.6: among the well-formed commands, only its own clearing command and the resets named here clear a
sticky flag. -/
def Obligations.StickyFlagsStay : Prop :=
  ∀ (c : Instr) (s t : State), c.wf = true → exec c s = .next t →
    (s.commandRefused = true → t.commandRefused = false →
      (∃ m, c = .commandRefusedClear m ∨ c = .chipReset m) ∨ c = .pinReset) ∧
    (s.overrun = true → t.overrun = false → (∃ m, c = .overrunClear m) ∨ c = .pinReset) ∧
    ∀ x, s.quiescedFlags.get x = true → t.quiescedFlags.get x = false →
      (∃ m flags, c = .quiescedClear m flags ∧ flags.getLsbD (branchCode x) = true) ∨ (∃ m, c = .chipReset m) ∨ c = .pinReset

/-! ## ABANDON and the expiries of the Request Table -/

/-- Section 1.6: the five steps of ABANDON as one event, and the drains that the freed entries held open (section 8.2). -/
def Obligations.AbandonReleasesAMaster : Prop :=
  ∀ (m k : Master) (s : State), s.phase = .run → TableOk s →
    ∃ u,
      exec (.abandon m k) s =
        .next (respond m .complete none
          (completeDrain .d (completeDrain .c (completeDrain .b (completeDrain .a
            (offer (.masterAbandoned k (s.entries.countP (fun e => e.master = k && !isIssued e))
              (s.entries.countP (fun e => e.master = k && isIssued e))) u)))))) ∧
      HandedOver
        (((s.reservations.get k).map Reservation.slot).toList ++
          allSlots.filter (fun j => s.entries.any (fun e => e.slot = j && e.master = k && !isIssued e)))
        { s with waiting := s.waiting.filter (· ≠ k), reservations := s.reservations.set k none } u ∧
      u = { s with
        entries := (s.entries.filter (fun e => e.master ≠ k || isIssued e)).map
          (fun e => if e.master = k then { e with state := .issued true } else e)
        waiting := u.waiting, reservations := u.reservations }

/-- Sections 1.5 and 2.5: the expiry of a claim timer frees the slot and offers CLAIM_EXPIRED, whose outcome has no reason code; the
expiry of a reservation ends it and hands its slot on, with no record. As rows of their own the expiries belong to a timer with at most
one tick left (notes/assumptions/4); where there is no such timer the expiry does not arise, and that it then changes nothing is the
model's choice (notes/assumptions/7). -/
def Obligations.TableExpiries : Prop :=
  (∀ (k : Slot) (s : State), TableOk s →
    (∀ e o d n, e ∈ s.entries → e.slot = k → e.state = .ready o d (some n) → n ≤ 1 →
      ∃ u, exec (.claimTimerExpiry k) s = .next (offer (.claimExpired e.master k e.hostAddr e.kind (outcomeName o)) u) ∧
        HandedOver [k] s u ∧
        u = { s with
          entries := s.entries.filter (fun f => f.slot ≠ k), waiting := u.waiting, reservations := u.reservations }) ∧
    (¬ ReachesZero s (.claim k) → exec (.claimTimerExpiry k) s = .next s)) ∧
  ∀ (m : Master) (s : State),
    (∀ r, s.reservations.get m = some r → r.remaining ≤ 1 →
      ∃ u, exec (.reservationExpiry m) s = .next u ∧
        HandedOver [r.slot] { s with reservations := s.reservations.set m none } u ∧
        u = { s with waiting := u.waiting, reservations := u.reservations }) ∧
    (¬ ReachesZero s (.reservation m) → exec (.reservationExpiry m) s = .next s)

/-- Sections 9.4 and 9.5 with the layouts of section 10.8: the record head view shows the head record, fields its kind does not carry as
zero; the counter, the attention status and enables and the command-refused flag read as they stand. -/
def Obligations.RecordAndAttentionWords : Prop :=
  CodesAsListed ∧ ∀ s : State,
    (s.records = [] → ∀ i, readReg (.recordView i) s = 0) ∧
    (∀ r rest, s.records = r :: rest → s.records.length ≤ 16 → RecordCountsInRange r.body →
      (readReg (.recordView 0) s).toNat =
        placed [(0, 1), (4, (recordFields r.body).1), (8, r.seq.toNat), (24, s.records.length)] ∧
      (readReg (.recordView 1) s).toNat = placed (recordFields r.body).2.1 ∧
      (readReg (.recordView 2) s).toNat = placed (recordFields r.body).2.2.1 ∧
      (readReg (.recordView 3) s).toNat = placed (recordFields r.body).2.2.2) ∧
    (readReg .recordCounter s).toNat = s.recordCounter.toNat ∧
    (readReg .attentionStatus s).toNat =
      placed [(0, bit (s.records ≠ [])), (1, bit s.overrun), (4, bit s.quiescedFlags.a), (5, bit s.quiescedFlags.b),
        (6, bit s.quiescedFlags.c), (7, bit s.quiescedFlags.d), (31, bit (attn s))] ∧
    (readReg .attentionEnables s).toNat =
      placed [(0, bit s.enables.recordPending), (1, bit s.enables.overrun), (4, bit s.enables.quiesced.a),
        (5, bit s.enables.quiesced.b), (6, bit s.enables.quiesced.c), (7, bit s.enables.quiesced.d)] ∧
    (readReg .commandRefused s).toNat = bit s.commandRefused

/-! ## Invariants that every step keeps -/

/-- Sections 9.1 to 9.3: at most 16 records, numbered consecutively up to the counter. -/
def Obligations.StepKeepsRecordsDense : Prop :=
  ∀ s t : State, RecordsDense s → step s = .next t → RecordsDense t

/-- Sections 1.1 and 1.5: slots, reservations and the waiting list stay consistent, and an open slot and a waiting master never exist
together. -/
def Obligations.StepKeepsTableOk : Prop :=
  ∀ s t : State, TableOk s → step s = .next t → TableOk t

/-- Sections 1.2 and 2.2: no two live entries of one master are one request, and a master has one word-fetch READ entry for a word at
most. -/
def Obligations.StepKeepsRequestsDistinct : Prop :=
  ∀ s t : State, RequestsDistinct s → step s = .next t → RequestsDistinct t

/-- Sections 1.1, 1.2 and 4.3: every entry's node is 1–31, no PENDING entry's node is OFFLINE, and a PENDING entry's posted-ahead count
is at most its branch's fill. -/
def Obligations.StepKeepsPendingEntriesSound : Prop :=
  (∀ s t : State, PendingNodesAnswer s → step s = .next t → PendingNodesAnswer t) ∧
    ∀ s t : State, PostedAheadBounded s → step s = .next t → PostedAheadBounded t

/-- Sections 4.1, 6.1, 8.2 and 8.3: the shape of every branch's column, whatever its state. -/
def Obligations.StepKeepsColumnsOk : Prop :=
  ∀ s t : State, TableOk s → ColumnsOk s → step s = .next t → ColumnsOk t

/-- Sections 1.2, 4.2 and 6.1: the posted head in flight and every ISSUED entry has exactly one transaction, and every transaction of
those sources has its record or entry. -/
def Obligations.StepKeepsFlightsOk : Prop :=
  ∀ s t : State, TableOk s → ColumnsOk s → FlightsOk s → step s = .next t → FlightsOk t

/-- Section 5.2: while a transaction for a node is parked, no other transaction goes to that node. -/
def Obligations.StepKeepsOneTransactionPerNode : Prop :=
  ∀ s t : State, NodesApart s → step s = .next t → NodesApart t

/-- Section 2.5: in every state of the claim window setting, a READY entry has a running claim timer unless it is 0. -/
def Obligations.StepKeepsClaimTimersRunning : Prop :=
  ∀ s t : State, ClaimTimersRun s → step s = .next t → ClaimTimersRun t

/-- Section 8.2: a drain completes in the event that meets the last condition, so none is left open. -/
def Obligations.StepLeavesNoDrainOpen : Prop :=
  ∀ s t : State, TableOk s → FlightsOk s → NoDrainLeftOpen s → step s = .next t → NoDrainLeftOpen t

/-- Sections 1.3, 2.5, 5.4, 6.1, 7.1, 7.5 and 10.3: settings, counts and probe sets stay in their ranges, and no event leaves a timer at
zero, since a timer expires in the event of the tick that brings it there. -/
def Obligations.StepKeepsRanges : Prop :=
  (∀ s t : State, SettingsInRange s → step s = .next t → SettingsInRange t) ∧
  (∀ s t : State, CountsInRange s → step s = .next t → CountsInRange t) ∧
  (∀ s t : State, ProbeSetsOk s → step s = .next t → ProbeSetsOk t) ∧
  ∀ s t : State, TableOk s → SettingsInRange s → TimersAboveZero s → step s = .next t → TimersAboveZero t

/-- The state after reset meets every invariant above.
That this is the state after the initialisation is the model's choice (notes/assumptions/1). -/
def Obligations.ResetMeetsEveryInvariant : Prop :=
  RecordsDense State.reset ∧ TableOk State.reset ∧ RequestsDistinct State.reset ∧ PendingNodesAnswer State.reset ∧
    PostedAheadBounded State.reset ∧ ColumnsOk State.reset ∧ FlightsOk State.reset ∧ NodesApart State.reset ∧
    ClaimTimersRun State.reset ∧ NoDrainLeftOpen State.reset ∧ SettingsInRange State.reset ∧ CountsInRange State.reset ∧
    ProbeSetsOk State.reset ∧ TimersAboveZero State.reset

/-! ## The choice event -/

/-- R88: after the drops, the choice is the first of the six cases that applies, there is always exactly one, and it is what is
issued. -/
def Obligations.ChoiceFollowsTheSixCases : Prop :=
  ∀ (x : Branch) (s : State), MayChoose (unitOf s x) → ProbeSetsOk s →
    ∃ c, Chosen x (dropOfflineHeads x s) c ∧ (∀ c', Chosen x (dropOfflineHeads x s) c' → c' = c) ∧
      exec (.choiceEvent x) s = .next (completeDrain x (issue x c (dropOfflineHeads x s)))

/-- Sections 5.3 and 5.4: what handing over each candidate does, where no head is to be dropped and no resync probe is substituted. -/
def Obligations.IssueOfEachCandidate : Prop :=
  ∀ (x : Branch) (s : State), MayChoose (unitOf s x) → NoOfflineHead (unitOf s x) → ProbeSetsOk s →
    (∀ tx, Chosen x s (.parked tx) →
      exec (.choiceEvent x) s =
        .next (onUnit x (fun u => { u with park := none, engine := .transmit tx (lineRate s x) }) s)) ∧
    (∀ n, Chosen x s (.probe n) →
      exec (.choiceEvent x) s =
        .next (onUnit x
          (fun u => { u with probeDeferral := 0, engine := .transmit (probeRecord .probeSet n) (lineRate s x) }) s)) ∧
    (∀ r p, Chosen x s (.posted r) →
      ((r.node = 0 ∧ p = false) ∨ (r.node ≠ 0 ∧ (nodeOf (unitOf s x) r.node).parity = .known p)) →
      exec (.choiceEvent x) s =
        .next (onUnit x
          (fun u =>
            { u with
              headInFlight := true
              postedRun := min 15 (u.postedRun + 1)
              probeDeferral := if u.probeSet = [] then u.probeDeferral else min 8 (u.probeDeferral + 1)
              engine := .transmit ⟨.posted, r.node, .write, r.regAddr, r.width, r.data, p, 0, 0⟩ (lineRate s x) }) s)) ∧
    (∀ e p, Chosen x s (.deferred e) →
      ((e.kind = .read ∧ p = false) ∨
        (e.kind = .write ∧ e.node ≠ 0 ∧ (nodeOf (unitOf s x) e.node).parity = .known p)) →
      exec (.choiceEvent x) s =
        .next (onEntries (fun f => if f.slot = e.slot then { f with state := .issued false } else f)
          (onUnit x
            (fun u =>
              { u with
                postedRun := 0
                probeDeferral := if u.probeSet = [] then u.probeDeferral else min 8 (u.probeDeferral + 1)
                engine :=
                  .transmit ⟨.slot e.slot, e.node, if e.kind = .read then .read else .write, e.regAddr, e.fetchWidth, e.writeData, p, 0, 0⟩
                    (lineRate s x) }) s))) ∧
    (Chosen x s .nothing → NoDrainLeftOpen s → exec (.choiceEvent x) s = .next s)

/-- Section 5.5: a chosen write to a node whose parity is UNSURE is left exactly as it was and a resync probe goes instead. -/
def Obligations.ResyncProbeInPlaceOfAWrite : Prop :=
  ∀ (x : Branch) (n : Node) (s : State), MayChoose (unitOf s x) → NoOfflineHead (unitOf s x) → ProbeSetsOk s →
    n ≠ 0 → (nodeOf (unitOf s x) n).parity = .unsure →
    ((∃ r, Chosen x s (.posted r) ∧ r.node = n) ∨ ∃ e, Chosen x s (.deferred e) ∧ e.kind = .write ∧ e.node = n) →
    exec (.choiceEvent x) s =
      .next (onUnit x
        (fun u => { u with probeDeferral := 0, engine := .transmit (probeRecord .resync n) (lineRate s x) }) s)

/-- Sections 4.5 and 5.1: a choice event first drops the whole run of OFFLINE heads, each a departure counted in its node's record and
with no exception record, and then acts as it would on the state the drops leave. -/
def Obligations.OfflineHeadsAreDroppedFirst : Prop :=
  ∀ (x : Branch) (run rest : List PostedRecord) (s : State), MayChoose (unitOf s x) → CountsInRange s →
    (unitOf s x).queue = run ++ rest → (unitOf s x).headInFlight = false →
    (∀ r ∈ run, nodeIsOffline (unitOf s x) r.node = true) →
    (∀ r, rest.head? = some r → nodeIsOffline (unitOf s x) r.node = false) →
    ∃ nodes : Vector NodeRecord 31,
      (∀ n : Node, n ≠ 0 →
        nodes[(nodePlace n).val] =
          { nodeOf (unitOf s x) n with
            dropped := min 255 ((nodeOf (unitOf s x) n).dropped + run.countP (fun r => r.node = n)) }) ∧
      exec (.choiceEvent x) s =
        exec (.choiceEvent x)
          { s with
            branches := s.branches.set x { unitOf s x with queue := rest, nodes := nodes }
            entries := s.entries.map (fun e =>
              if e.branch = x ∧ e.state = .pending then { e with postedAhead := e.postedAhead - run.length } else e) }

/-! ## The link -/

/-- R104: at send-complete a broadcast ends and its posted head leaves, no reply awaited; any other transaction is awaited for the
reply window. -/
def Obligations.SendComplete : Prop :=
  ∀ (x : Branch) (tx : Txn) (rate : LineRate) (s : State), (unitOf s x).engine = .transmit tx rate →
    (tx.node = 0 → tx.source = .posted →
      exec (.sendComplete x) s =
        .next (completeDrain x (onEntries
          (fun e => if e.branch = x ∧ e.state = .pending then { e with postedAhead := e.postedAhead - 1 } else e)
          (onUnit x (fun u => { u with queue := u.queue.tail, headInFlight := false }) (idled x s))))) ∧
    (tx.node ≠ 0 →
      exec (.sendComplete x) s =
        .next (onUnit x (fun u => { u with engine := .await tx (u.settings.replyWindow * 10) }) s))

/-- Section 10.7: a start mark in AWAIT begins a new reception at the rate in force; in any other state, or while a frame is being
ignored, the line is ignored until the next end mark, and a frame not received as a reply changes nothing but that.
That a start mark inside an ignored frame is ignored with it is deduced (notes/assumptions/8). -/
def Obligations.StartMarkAndIgnoredFrames : Prop :=
  ∀ (x : Branch) (s : State),
    (s.phase ≠ .pinLow → (unitOf s x).receiver ≠ .ignoring → (∃ tx n, (unitOf s x).engine = .await tx n) →
      exec (.startMark x) s = .next (onUnit x (fun u => { u with receiver := .receiving (lineRate s x) }) s)) ∧
    (s.phase ≠ .pinLow → ((unitOf s x).receiver = .ignoring ∨ ∀ tx n, (unitOf s x).engine ≠ .await tx n) →
      exec (.startMark x) s = .next (onUnit x (fun u => { u with receiver := .ignoring }) s)) ∧
    (∀ f : RxFrame, (unitOf s x).receiver = .ignoring →
      exec (.replyFrame x f) s =
        .next (if f.endMark = true then onUnit x (fun u => { u with receiver := .clear }) s else s)) ∧
    ∀ f : RxFrame, (unitOf s x).receiver = .clear → exec (.replyFrame x f) s = .next s

/-- Sections 6.3 and 10.7: a reply other than HOLD ends the transaction; a frame that is no reply to it is handled exactly as the expiry
of the reply window.
When two rates agree, and that a frame of another length is no reply, is deduced (notes/assumptions/9 and 10). -/
def Obligations.ReplyFrameIsJudged : Prop :=
  ∀ (x : Branch) (tx : Txn) (left : Nat) (rate : LineRate) (f : RxFrame) (s : State), Receiving s x tx left rate →
    (∀ r en, IsReply tx rate f r → endOf r = some en → exec (.replyFrame x f) s = .next (Ended x tx en s)) ∧
    ((∀ r, ¬ IsReply tx rate f r) →
      exec (.replyFrame x f) s = exec (.replyWindowExpiry x) (onUnit x (fun u => { u with engine := .await tx 0 }) s))

/-- Section 6.4: a HOLD reply ends the transaction with BUSY_LIMIT at the hold limit, else parks it, else sends the engine to BACKOFF;
the node has replied, and a posted head's counts follow the transaction's. When two rates agree is deduced (notes/assumptions/10), and
so is that a HOLD reply would recover an OFFLINE node (notes/assumptions/16). -/
def Obligations.HoldReply : Prop :=
  ∀ (x : Branch) (tx : Txn) (left : Nat) (rate : LineRate) (f : RxFrame) (s : State), Receiving s x tx left rate →
    IsReply tx rate f .hold →
    let held : Txn := { tx with holdsUsed := tx.holdsUsed + 1 }
    let counted : BranchUnit → BranchUnit := fun u => { u with queue := queueFollowing held u.queue }
    let alive : BranchUnit → BranchUnit := fun u =>
      onNode tx.node (fun r => { r with state := .online, failures := 0 }) { counted u with receiver := .clear }
    let told : State → State := fun t =>
      if nodeIsOffline (unitOf s x) tx.node then offer (.nodeRecovered x tx.node) t else t
    ((unitOf s x).settings.holdLimit ≤ tx.holdsUsed + 1 →
      exec (.replyFrame x f) s = .next (Ended x held .busyLimit (onUnit x counted s))) ∧
    (tx.holdsUsed + 1 < (unitOf s x).settings.holdLimit → (unitOf s x).park = none →
      exec (.replyFrame x f) s =
        .next (told (onUnit x (fun u =>
          { alive u with
            engine := .idle, park := some { tx := held, delay := .waiting (u.settings.holdDelay * 10) } }) s))) ∧
    (tx.holdsUsed + 1 < (unitOf s x).settings.holdLimit → (unitOf s x).park ≠ none →
      exec (.replyFrame x f) s =
        .next (told (onUnit x (fun u => { alive u with engine := .backoff held (u.settings.holdDelay * 10) }) s)))

/-- Section 6.5: at the expiry of the reply window the same frame is sent again below the resend limit, with a posted head's counts
following the transaction's; at the limit the transaction ends with NO_REPLY. As a row of its own the expiry belongs to a window with at
most one tick left (notes/assumptions/4). -/
def Obligations.ReplyWindowExpiry : Prop :=
  ∀ (x : Branch) (tx : Txn) (n : Nat) (s : State), (unitOf s x).engine = .await tx n → n ≤ 1 →
    (tx.resendsUsed < (unitOf s x).settings.resendLimit →
      let again : Txn := { tx with resendsUsed := tx.resendsUsed + 1 }
      let t : State := onUnit x (fun u =>
        { u with
          receiver := if u.receiver = .ignoring then .ignoring else .clear
          queue := queueFollowing again u.queue
          engine := .transmit again (lineRate s x) }) s
      exec (.replyWindowExpiry x) s = .next t ∧ lineFrame t x = some (commandFrame tx, lineRate s x)) ∧
    ((unitOf s x).settings.resendLimit ≤ tx.resendsUsed →
      exec (.replyWindowExpiry x) s = .next (Ended x tx .noReply s))

/-- Section 6.4: a parked transaction becomes due at its hold delay's expiry; one in BACKOFF has the same frame sent again, unchanged, at
its own. As rows of their own the expiries belong to a delay with at most one tick left (notes/assumptions/4). -/
def Obligations.HoldDelayExpiries : Prop :=
  ∀ (x : Branch) (tx : Txn) (n : Nat) (s : State), n ≤ 1 →
    ((unitOf s x).park = some { tx := tx, delay := .waiting n } →
      exec (.parkedHoldDelayExpiry x) s =
        .next (onUnit x (fun u => { u with park := some { tx := tx, delay := .due } }) s)) ∧
    ((unitOf s x).engine = .backoff tx n →
      let t : State := onUnit x (fun u => { u with engine := .transmit tx (lineRate s x) }) s
      exec (.backoffHoldDelayExpiry x) s = .next t ∧ lineFrame t x = some (commandFrame tx, lineRate s x))

/-! ## The end of a transaction -/

/-- Sections 1.2 and 2.5: the entry of a deferred transaction takes the outcome and becomes READY with its claim timer, or its slot
becomes FREE if it is marked abandoned. -/
def Obligations.EndOfADeferredTransaction : Prop :=
  ∀ (x : Branch) (tx : Txn) (en : TxEnd) (e : Entry) (s : State), TableOk s → tx.source = .slot e.slot → e ∈ s.entries →
    (e.state = .issued false →
      ∀ o d, (o, d) =
          (match en with
          | .data bytes => (Outcome.ok, some bytes)
          | .denied reason => (.nodeDenied reason, none)
          | .busyLimit => (.busyLimit, none)
          | .noReply => (.noReply, none)
          | _ => (.ok, none)) →
        endSource x tx en s =
          { s with entries := s.entries.map (fun f =>
              if f.slot = e.slot then
                { f with state := .ready o d (if s.claimWindow = 0 then none else some (s.claimWindow * 16)) }
              else f) }) ∧
    (e.state = .issued true →
      HandedOver [e.slot] s (endSource x tx en s) ∧
      endSource x tx en s =
        { s with
          entries := s.entries.filter (fun f => f.slot ≠ e.slot)
          waiting := (endSource x tx en s).waiting
          reservations := (endSource x tx en s).reservations })

/-- Sections 4.3 and 4.4: the posted head leaves at the end of its transaction; the PENDING entries of the branch count one fewer; a
failure offers POSTED_DROPPED with its reason. -/
def Obligations.EndOfAPostedTransaction : Prop :=
  ∀ (x : Branch) (tx : Txn) (r : PostedRecord) (rest : List PostedRecord) (s : State), tx.source = .posted →
    (unitOf s x).queue = r :: rest →
    let departed : State :=
      { s with
        branches := s.branches.set x { unitOf s x with queue := rest, headInFlight := false }
        entries := s.entries.map (fun e =>
          if e.branch = x ∧ e.state = .pending then { e with postedAhead := e.postedAhead - 1 } else e) }
    endSource x tx .done s = departed ∧
    endSource x tx .broadcastSent s = departed ∧
    (∀ reason, endSource x tx (.denied reason) s =
      offer (.postedDropped x r.node r.master r.hostAddr (.nodeDenied reason)) departed) ∧
    endSource x tx .busyLimit s = offer (.postedDropped x r.node r.master r.hostAddr .busyLimit) departed ∧
    endSource x tx .noReply s = offer (.postedDropped x r.node r.master r.hostAddr .noReply) departed

/-- Sections 7.2, 7.3, 7.5 and 6.6: a valid reply makes the node ONLINE with failures 0, sets the parity after DONE and PRESENT and the
type after PRESENT, and offers NODE_RECOVERED if the node was OFFLINE; the end of a probe-set probe takes its node out of the set, and
the end of a resync probe changes nothing at its source.
That a reply other than PRESENT would recover an OFFLINE node too is deduced (notes/assumptions/16). -/
def Obligations.EndWithAValidReply : Prop :=
  ∀ (x : Branch) (tx : Txn) (s : State),
    (∀ en, tx.node ≠ 0 → en ≠ .noReply →
      endNode x tx en s =
        (let t := onUnit x (onNode tx.node (fun r =>
            { r with
              state := .online
              failures := 0
              parity :=
                match en with
                | .done => if tx.op = .write then .known (!tx.parity) else r.parity
                | .present _ last => .known (!last)
                | _ => r.parity
              nodeType :=
                match en with
                | .present nodeType _ => some nodeType
                | _ => r.nodeType })) s
         if nodeIsOffline (unitOf s x) tx.node then offer (.nodeRecovered x tx.node) t else t)) ∧
    (∀ en, tx.source = .probeSet →
      endSource x tx en s = onUnit x (fun u => { u with probeSet := u.probeSet.filter (· ≠ tx.node) }) s) ∧
    (∀ en, tx.source = .resync → endSource x tx en s = s) ∧
    ∀ en, tx.node = 0 → endNode x tx en s = s

/-- Sections 7.2 and 6.6: NO_REPLY counts a failure, makes a written node's parity UNSURE, and at the threshold turns the node OFFLINE,
with NODE_OFFLINE and its PENDING entries READY with outcome NODE_OFFLINE. -/
def Obligations.EndWithNoReply : Prop :=
  ∀ (x : Branch) (tx : Txn) (s : State), tx.node ≠ 0 →
    let failed : Nat := min 15 ((nodeOf (unitOf s x) tx.node).failures + 1)
    let threshold : Nat := (unitOf s x).settings.offlineThreshold
    let counted : NodeState → State := fun st =>
      onUnit x (onNode tx.node (fun r =>
        { r with
          state := st
          failures := failed
          parity := if tx.op = .write then .unsure else r.parity })) s
    ((nodeOf (unitOf s x) tx.node).state = .offline → endNode x tx .noReply s = counted .offline) ∧
    ((nodeOf (unitOf s x) tx.node).state ≠ .offline → failed < threshold → endNode x tx .noReply s = counted .suspect) ∧
    ((nodeOf (unitOf s x) tx.node).state ≠ .offline → threshold ≤ failed →
      endNode x tx .noReply s =
        onEntries (fun e =>
          if e.branch = x ∧ e.node = tx.node ∧ e.state = .pending then
            { e with state := .ready .nodeOffline none (if s.claimWindow = 0 then none else some (s.claimWindow * 16)) }
          else e) (offer (.nodeOffline x tx.node) (counted .offline)))

/-! ## Frames -/

/-- Sections 6.2, 10.7 and 10.8: a node reads from a command frame exactly the fields of the frame that it was built from, and its length
is 6 bytes, with the data bytes of a WRITE more. -/
def Obligations.CommandFrameReadsBack : Prop :=
  ∀ tx : Txn,
    parseCommand (commandFrame tx) =
      some { node := tx.node, op := tx.op, parity := tx.parity, regAddr := tx.regAddr, width := BitVec.ofNat 8 tx.width.bytes,
             data := tx.data } ∧
    (commandFrame tx).length = 6 + tx.data.length

/-- Sections 6.3 and 10.7: a frame is judged a valid reply exactly when it is the frame of the layout for a status that fits. That a
frame of another length, or too short for a status byte, is no reply is deduced (notes/assumptions/9). -/
def Obligations.ReplyIsValidExactly : Prop :=
  ∀ (tx : Txn) (bytes : List Byte) (endMark : Bool) (r : Reply),
    judgeReply tx bytes endMark = some r ↔ endMark = true ∧ bytes = replyBytes tx.node tx.parity r ∧ Fits tx r

/-- Section 6.7: the answer of a node that behaves as R115 and R116 ask is a valid reply to the frame it answers, and however often one
write's frame reaches it, it executes the write once.
The node stands outside the part (notes/assumptions/12). -/
def Obligations.NodeAnswersValidlyAndExecutesOnce : Prop :=
  (∀ (n : NodeModel) (will : NodeWill) (tx : Txn), n.addr ≠ 0 → tx.node = n.addr →
    (∀ contents, will = .obey contents → tx.op = .read → contents.length = tx.width.bytes) → will ≠ .deny 0 →
    ∃ r, (nodeReceive n will (commandFrame tx)).2 = some (replyBytes tx.node tx.parity r) ∧ Fits tx r) ∧
  ∀ (n : NodeModel) (wills : List NodeWill) (tx : Txn), n.addr ≠ 0 → tx.node = n.addr → tx.op = .write →
    tx.parity ≠ n.lastExecuted →
    (wills.foldl (fun k will => (nodeReceive k will (commandFrame tx)).1) n).executed =
      if wills.any (fun will => match will with | .obey _ => true | _ => false) then n.executed ++ [(tx.regAddr, tx.data)] else n.executed

/-! ## Branch control -/

/-- R136: the table of commands and states, with the answer at the port. -/
def Obligations.BranchCommandTable : Prop :=
  ∀ (m : Master) (x : Branch) (s : State), s.phase = .run →
    let refused : State := respond m .complete none { s with commandRefused := true }
    let unchanged : State := respond m .complete none s
    let moved : BranchState → State := fun c => respond m .complete none (onUnit x (fun u => { u with ctrl := c }) s)
    ((unitOf s x).ctrl = .active →
      (Drained s x → exec (.quiesce m x) s = .next (respond m .complete none (drainedState x s))) ∧
      (¬ Drained s x → exec (.quiesce m x) s = .next (moved .draining)) ∧
      exec (.resume m x) s = .next unchanged) ∧
    ((unitOf s x).ctrl = .draining ∨ (unitOf s x).ctrl = .quiesced →
      exec (.quiesce m x) s = .next unchanged ∧ exec (.resume m x) s = .next (moved .active)) ∧
    ((unitOf s x).ctrl ≠ .held →
      (∃ t, exec (.hold m x) s = .next t ∧ (unitOf t x).ctrl = .held ∧
        t.response = some { master := m, code := .complete, lanes := none }) ∧
      exec (.release m x) s = .next refused) ∧
    ((unitOf s x).ctrl = .held →
      exec (.quiesce m x) s = .next refused ∧ exec (.resume m x) s = .next refused ∧ exec (.hold m x) s = .next unchanged ∧
      exec (.release m x) s =
        .next (respond m .complete none (onUnit x (fun u => { u with ctrl := .quiesced, engine := .idle }) s))) ∧
    (∀ code : BitVec 4, code ≠ 1 → code ≠ 2 → code ≠ 3 → code ≠ 4 →
      exec (.unknownBranchCommand m x code) s = .next refused) ∧
    readReg (.branchCommand x) s = 0

/-- Section 8.3, with 1.2, 4.6, 5.7, 6.9 and 7.8: what the HELD entry does in its one event, and all it leaves.
That a frame being ignored stays so is deduced (notes/assumptions/8). -/
def Obligations.HoldEntersHeld : Prop :=
  ∀ (m : Master) (x : Branch) (s : State), s.phase = .run → TableOk s → (unitOf s x).ctrl ≠ .held →
    let fill : Nat := (unitOf s x).queue.length
    let flushed : State := if fill = 0 then s else offer (.postedFlushed x fill) s
    ∃ u,
      exec (.hold m x) s = .next (respond m .complete none u) ∧
      HandedOver (allSlots.filter (fun k => s.entries.any (fun e => e.slot = k && e.branch = x && isAbandoned e))) s u ∧
      u = { flushed with
        branches := s.branches.set x
          { ctrl := .held, queue := [], headInFlight := false, postedRun := 0, probeDeferral := 0,
            settings := (unitOf s x).settings, engine := .off, park := none,
            receiver := if (unitOf s x).receiver = .ignoring then .ignoring else .clear,
            nodes := Vector.replicate 31 nodeReset, probeSet := [] }
        entries := (s.entries.filter (fun e => e.branch ≠ x || !isAbandoned e)).map (fun e =>
          if e.branch = x ∧ isReady e = false then
            { e with
              state := .ready .branchReset none (if s.claimWindow = 0 then none else some (s.claimWindow * 16))
              postedAhead := if isPending e then e.postedAhead - fill else e.postedAhead }
          else e)
        waiting := u.waiting, reservations := u.reservations }

/-- Sections 7.5 and 7.6: PROBE and REVIVE are refused on a HELD branch; else the node joins the probe set, or its record is revived. -/
def Obligations.ProbeAndRevive : Prop :=
  ∀ (m : Master) (x : Branch) (n : Node) (s : State), s.phase = .run →
    ((unitOf s x).ctrl = .held →
      exec (.probe m x n) s = .next (respond m .complete none { s with commandRefused := true }) ∧
      exec (.revive m x n) s = .next (respond m .complete none { s with commandRefused := true })) ∧
    ((unitOf s x).ctrl ≠ .held → n ≠ 0 →
      (∃ ps, (∀ k, k ∈ ps ↔ k = n ∨ k ∈ (unitOf s x).probeSet) ∧
        exec (.probe m x n) s = .next (respond m .complete none (onUnit x (fun u => { u with probeSet := ps }) s))) ∧
      exec (.revive m x n) s =
        .next (respond m .complete none (onUnit x (onNode n (fun r =>
          { r with state := .unknown, failures := 0, parity := .unsure, dropped := 0 })) s)))

/-- Section 8.2: the completion of a drain.
As a command of its own it is the model's reading of the row (notes/assumptions/6). -/
def Obligations.DrainComplete : Prop :=
  ∀ (x : Branch) (s : State), (unitOf s x).ctrl = .draining → Drained s x →
    exec (.drainComplete x) s = .next (drainedState x s)

/-! ## Resets and the tick -/

/-- Sections 10.4, 1.7, 4.7, 5.7, 6.9, 7.8, 8.5 and 9.6: what each reset leaves, and where it ends.
That the waiting commands are kept, that the line is clear, that a pin reset sets the response record to none and the tick in force and its
count to 25 and 0, and that a chip reset keeps the tick in force and its count, is the model's choice (notes/assumptions/2, 8, 5 and
3). -/
def Obligations.Resets : Prop :=
  ∀ (m : Master) (s : State),
    exec .pinReset s = .next { State.reset with phase := .pinLow, pending := s.pending } ∧
    (s.phase = .pinLow → exec .rstNRelease s = .next { s with phase := .initialising }) ∧
    (s.phase = .initialising → exec .initialisationEnd s = .next { s with phase := .run }) ∧
    (s.phase = .run →
      exec (.chipReset m) s =
        .next (respond m .complete none
          { State.reset with
            phase := .chipReset, divisor := s.divisor, tickDivisor := s.tickDivisor, refclkPeriods := s.refclkPeriods,
            records := s.records, recordCounter := s.recordCounter, overrun := s.overrun, pending := s.pending })) ∧
    (s.phase = .chipReset → exec .chipResetEnd s = .next { s with phase := .run })

/-- Section 10.3: one tick lowers every running timer by one and nothing else of the part, and every timer it brings to zero expires in
the tick's own event, as its row does: those the operand lists first, as it lists them, then the rest. The count of REFCLK periods and
the divisor in force, and the order of expiries within a tick, are the model's choice (notes/assumptions/3 and 4). -/
def Obligations.Tick : Prop :=
  (∀ (order : List Timer) (s : State), TableOk s →
    let lowered : State :=
      { s with
        entries := s.entries.map (fun e =>
          match e.state with
          | .ready o d (some n) => { e with state := .ready o d (some (n - 1)) }
          | _ => e)
        reservations :=
          (let down := Option.map (fun r : Reservation => { r with remaining := r.remaining - 1 })
           ⟨down s.reservations.m0, down s.reservations.m1, down s.reservations.m2, down s.reservations.m3⟩)
        branches :=
          (let down := fun u : BranchUnit =>
            { u with
              engine :=
                match u.engine with
                | .await tx n => .await tx (n - 1)
                | .backoff tx n => .backoff tx (n - 1)
                | other => other
              park :=
                match u.park with
                | some { tx := tx, delay := .waiting n } => some { tx := tx, delay := .waiting (n - 1) }
                | other => other }
           ⟨down s.branches.a, down s.branches.b, down s.branches.c, down s.branches.d⟩)
        refclkPeriods := s.refclkPeriods + s.tickDivisor
        tickDivisor := s.divisor }
    ((∀ t, ¬ ReachesZero s t) → exec (.microsecondTick order) s = .next lowered) ∧
    (order.Nodup →
      ∃ due : List Timer, due.Nodup ∧ (∀ t, t ∈ due ↔ ReachesZero s t) ∧ order.filter (fun t => t ∈ due) <+: due ∧
        exec (.microsecondTick order) s = .next (due.foldl (fun u t => expire t u) lowered))) ∧
  ∀ (t : Timer) (u : State), exec (rowOf t) u = .next (expire t u)

/-- An event whose condition does not hold does not arise in the part; that the model then changes nothing is its own choice
(notes/assumptions/7). -/
def Obligations.EventsThatDoNotArise : Prop :=
  ∀ (x : Branch) (s : State),
    (¬ MayChoose (unitOf s x) → exec (.choiceEvent x) s = .next s) ∧
    ((∀ tx rate, (unitOf s x).engine ≠ .transmit tx rate) → exec (.sendComplete x) s = .next s) ∧
    (¬ ReachesZero s (.replyWindow x) → exec (.replyWindowExpiry x) s = .next s) ∧
    (¬ ReachesZero s (.backoffHold x) → exec (.backoffHoldDelayExpiry x) s = .next s) ∧
    (¬ ReachesZero s (.parkedHold x) → exec (.parkedHoldDelayExpiry x) s = .next s) ∧
    (¬ ((unitOf s x).ctrl = .draining ∧ Drained s x) → exec (.drainComplete x) s = .next s) ∧
    (s.phase ≠ .pinLow → exec .rstNRelease s = .next s) ∧
    (s.phase ≠ .initialising → exec .initialisationEnd s = .next s) ∧
    (s.phase ≠ .chipReset → exec .chipResetEnd s = .next s)
end

