-- ==== Sys2Proof/Laws/State.lean ====
section
/-! SUPPORT. Reading after writing, for the per-master and per-branch values and for each field of `State` under the record
updates the operations are made of. -/

namespace Sys2Proof

variable {α : Type}

@[simp] theorem PerMaster.get_set (p : PerMaster α) (m n : Master) (v : α) : (p.set m v).get n = if n = m then v else p.get n := by
  fin_cases m <;> fin_cases n <;> rfl

@[simp] theorem PerBranch.get_set (p : PerBranch α) (x y : Branch) (v : α) : (p.set x v).get y = if y = x then v else p.get y := by
  cases x <;> cases y <;> rfl

@[simp] theorem PerMaster.set_set (p : PerMaster α) (m : Master) (v w : α) : (p.set m v).set m w = p.set m w := by
  fin_cases m <;> rfl

@[simp] theorem PerBranch.set_set (p : PerBranch α) (x : Branch) (v w : α) : (p.set x v).set x w = p.set x w := by
  cases x <;> rfl

@[simp] theorem PerMaster.set_get (p : PerMaster α) (m : Master) : p.set m (p.get m) = p := by
  fin_cases m <;> rfl

@[simp] theorem PerBranch.set_get (p : PerBranch α) (x : Branch) : p.set x (p.get x) = p := by
  cases x <;> rfl

theorem PerMaster.ext_get {p q : PerMaster α} (h : ∀ m, p.get m = q.get m) : p = q := by
  cases p; cases q
  have h0 := h 0; have h1 := h 1; have h2 := h 2; have h3 := h 3
  simp_all [PerMaster.get]

theorem PerBranch.ext_get {p q : PerBranch α} (h : ∀ x, p.get x = q.get x) : p = q := by
  cases p; cases q
  have ha := h .a; have hb := h .b; have hc := h .c; have hd := h .d
  simp_all [PerBranch.get]

end Sys2Proof

namespace Sys2Proof.Machine

/-! ### `onUnit` -/

@[simp] theorem onUnit_phase (x : Branch) (f : BranchUnit → BranchUnit) (s : State) : (onUnit x f s).phase = s.phase := rfl
@[simp] theorem onUnit_response (x : Branch) (f : BranchUnit → BranchUnit) (s : State) : (onUnit x f s).response = s.response := rfl
@[simp] theorem onUnit_divisor (x : Branch) (f : BranchUnit → BranchUnit) (s : State) : (onUnit x f s).divisor = s.divisor := rfl
@[simp] theorem onUnit_tickDivisor (x : Branch) (f : BranchUnit → BranchUnit) (s : State) : (onUnit x f s).tickDivisor = s.tickDivisor := rfl
@[simp] theorem onUnit_refclkPeriods (x : Branch) (f : BranchUnit → BranchUnit) (s : State) : (onUnit x f s).refclkPeriods = s.refclkPeriods := rfl
@[simp] theorem onUnit_quotas (x : Branch) (f : BranchUnit → BranchUnit) (s : State) : (onUnit x f s).quotas = s.quotas := rfl
@[simp] theorem onUnit_claimWindow (x : Branch) (f : BranchUnit → BranchUnit) (s : State) : (onUnit x f s).claimWindow = s.claimWindow := rfl
@[simp] theorem onUnit_resWindow (x : Branch) (f : BranchUnit → BranchUnit) (s : State) : (onUnit x f s).resWindow = s.resWindow := rfl
@[simp] theorem onUnit_entries (x : Branch) (f : BranchUnit → BranchUnit) (s : State) : (onUnit x f s).entries = s.entries := rfl
@[simp] theorem onUnit_waiting (x : Branch) (f : BranchUnit → BranchUnit) (s : State) : (onUnit x f s).waiting = s.waiting := rfl
@[simp] theorem onUnit_reservations (x : Branch) (f : BranchUnit → BranchUnit) (s : State) : (onUnit x f s).reservations = s.reservations := rfl
@[simp] theorem onUnit_apertures (x : Branch) (f : BranchUnit → BranchUnit) (s : State) : (onUnit x f s).apertures = s.apertures := rfl
@[simp] theorem onUnit_commandRefused (x : Branch) (f : BranchUnit → BranchUnit) (s : State) : (onUnit x f s).commandRefused = s.commandRefused := rfl
@[simp] theorem onUnit_records (x : Branch) (f : BranchUnit → BranchUnit) (s : State) : (onUnit x f s).records = s.records := rfl
@[simp] theorem onUnit_recordCounter (x : Branch) (f : BranchUnit → BranchUnit) (s : State) : (onUnit x f s).recordCounter = s.recordCounter := rfl
@[simp] theorem onUnit_overrun (x : Branch) (f : BranchUnit → BranchUnit) (s : State) : (onUnit x f s).overrun = s.overrun := rfl
@[simp] theorem onUnit_quiescedFlags (x : Branch) (f : BranchUnit → BranchUnit) (s : State) : (onUnit x f s).quiescedFlags = s.quiescedFlags := rfl
@[simp] theorem onUnit_enables (x : Branch) (f : BranchUnit → BranchUnit) (s : State) : (onUnit x f s).enables = s.enables := rfl
@[simp] theorem onUnit_pending (x : Branch) (f : BranchUnit → BranchUnit) (s : State) : (onUnit x f s).pending = s.pending := rfl

/-! ### `onEntries` -/

@[simp] theorem onEntries_phase (f : Entry → Entry) (s : State) : (onEntries f s).phase = s.phase := rfl
@[simp] theorem onEntries_response (f : Entry → Entry) (s : State) : (onEntries f s).response = s.response := rfl
@[simp] theorem onEntries_divisor (f : Entry → Entry) (s : State) : (onEntries f s).divisor = s.divisor := rfl
@[simp] theorem onEntries_tickDivisor (f : Entry → Entry) (s : State) : (onEntries f s).tickDivisor = s.tickDivisor := rfl
@[simp] theorem onEntries_refclkPeriods (f : Entry → Entry) (s : State) : (onEntries f s).refclkPeriods = s.refclkPeriods := rfl
@[simp] theorem onEntries_quotas (f : Entry → Entry) (s : State) : (onEntries f s).quotas = s.quotas := rfl
@[simp] theorem onEntries_claimWindow (f : Entry → Entry) (s : State) : (onEntries f s).claimWindow = s.claimWindow := rfl
@[simp] theorem onEntries_resWindow (f : Entry → Entry) (s : State) : (onEntries f s).resWindow = s.resWindow := rfl
@[simp] theorem onEntries_waiting (f : Entry → Entry) (s : State) : (onEntries f s).waiting = s.waiting := rfl
@[simp] theorem onEntries_reservations (f : Entry → Entry) (s : State) : (onEntries f s).reservations = s.reservations := rfl
@[simp] theorem onEntries_apertures (f : Entry → Entry) (s : State) : (onEntries f s).apertures = s.apertures := rfl
@[simp] theorem onEntries_branches (f : Entry → Entry) (s : State) : (onEntries f s).branches = s.branches := rfl
@[simp] theorem onEntries_commandRefused (f : Entry → Entry) (s : State) : (onEntries f s).commandRefused = s.commandRefused := rfl
@[simp] theorem onEntries_records (f : Entry → Entry) (s : State) : (onEntries f s).records = s.records := rfl
@[simp] theorem onEntries_recordCounter (f : Entry → Entry) (s : State) : (onEntries f s).recordCounter = s.recordCounter := rfl
@[simp] theorem onEntries_overrun (f : Entry → Entry) (s : State) : (onEntries f s).overrun = s.overrun := rfl
@[simp] theorem onEntries_quiescedFlags (f : Entry → Entry) (s : State) : (onEntries f s).quiescedFlags = s.quiescedFlags := rfl
@[simp] theorem onEntries_enables (f : Entry → Entry) (s : State) : (onEntries f s).enables = s.enables := rfl
@[simp] theorem onEntries_pending (f : Entry → Entry) (s : State) : (onEntries f s).pending = s.pending := rfl

/-! ### `respond` -/

@[simp] theorem respond_phase (m : Master) (c : ResponseCode) (l : Option Word) (s : State) : (respond m c l s).phase = s.phase := rfl
@[simp] theorem respond_divisor (m : Master) (c : ResponseCode) (l : Option Word) (s : State) : (respond m c l s).divisor = s.divisor := rfl
@[simp] theorem respond_tickDivisor (m : Master) (c : ResponseCode) (l : Option Word) (s : State) : (respond m c l s).tickDivisor = s.tickDivisor := rfl
@[simp] theorem respond_refclkPeriods (m : Master) (c : ResponseCode) (l : Option Word) (s : State) : (respond m c l s).refclkPeriods = s.refclkPeriods := rfl
@[simp] theorem respond_quotas (m : Master) (c : ResponseCode) (l : Option Word) (s : State) : (respond m c l s).quotas = s.quotas := rfl
@[simp] theorem respond_claimWindow (m : Master) (c : ResponseCode) (l : Option Word) (s : State) : (respond m c l s).claimWindow = s.claimWindow := rfl
@[simp] theorem respond_resWindow (m : Master) (c : ResponseCode) (l : Option Word) (s : State) : (respond m c l s).resWindow = s.resWindow := rfl
@[simp] theorem respond_entries (m : Master) (c : ResponseCode) (l : Option Word) (s : State) : (respond m c l s).entries = s.entries := rfl
@[simp] theorem respond_waiting (m : Master) (c : ResponseCode) (l : Option Word) (s : State) : (respond m c l s).waiting = s.waiting := rfl
@[simp] theorem respond_reservations (m : Master) (c : ResponseCode) (l : Option Word) (s : State) : (respond m c l s).reservations = s.reservations := rfl
@[simp] theorem respond_apertures (m : Master) (c : ResponseCode) (l : Option Word) (s : State) : (respond m c l s).apertures = s.apertures := rfl
@[simp] theorem respond_branches (m : Master) (c : ResponseCode) (l : Option Word) (s : State) : (respond m c l s).branches = s.branches := rfl
@[simp] theorem respond_commandRefused (m : Master) (c : ResponseCode) (l : Option Word) (s : State) : (respond m c l s).commandRefused = s.commandRefused := rfl
@[simp] theorem respond_records (m : Master) (c : ResponseCode) (l : Option Word) (s : State) : (respond m c l s).records = s.records := rfl
@[simp] theorem respond_recordCounter (m : Master) (c : ResponseCode) (l : Option Word) (s : State) : (respond m c l s).recordCounter = s.recordCounter := rfl
@[simp] theorem respond_overrun (m : Master) (c : ResponseCode) (l : Option Word) (s : State) : (respond m c l s).overrun = s.overrun := rfl
@[simp] theorem respond_quiescedFlags (m : Master) (c : ResponseCode) (l : Option Word) (s : State) : (respond m c l s).quiescedFlags = s.quiescedFlags := rfl
@[simp] theorem respond_enables (m : Master) (c : ResponseCode) (l : Option Word) (s : State) : (respond m c l s).enables = s.enables := rfl
@[simp] theorem respond_pending (m : Master) (c : ResponseCode) (l : Option Word) (s : State) : (respond m c l s).pending = s.pending := rfl

/-! ### `setQuiesced` -/

@[simp] theorem setQuiesced_phase (x : Branch) (s : State) : (setQuiesced x s).phase = s.phase := rfl
@[simp] theorem setQuiesced_response (x : Branch) (s : State) : (setQuiesced x s).response = s.response := rfl
@[simp] theorem setQuiesced_divisor (x : Branch) (s : State) : (setQuiesced x s).divisor = s.divisor := rfl
@[simp] theorem setQuiesced_tickDivisor (x : Branch) (s : State) : (setQuiesced x s).tickDivisor = s.tickDivisor := rfl
@[simp] theorem setQuiesced_refclkPeriods (x : Branch) (s : State) : (setQuiesced x s).refclkPeriods = s.refclkPeriods := rfl
@[simp] theorem setQuiesced_quotas (x : Branch) (s : State) : (setQuiesced x s).quotas = s.quotas := rfl
@[simp] theorem setQuiesced_claimWindow (x : Branch) (s : State) : (setQuiesced x s).claimWindow = s.claimWindow := rfl
@[simp] theorem setQuiesced_resWindow (x : Branch) (s : State) : (setQuiesced x s).resWindow = s.resWindow := rfl
@[simp] theorem setQuiesced_entries (x : Branch) (s : State) : (setQuiesced x s).entries = s.entries := rfl
@[simp] theorem setQuiesced_waiting (x : Branch) (s : State) : (setQuiesced x s).waiting = s.waiting := rfl
@[simp] theorem setQuiesced_reservations (x : Branch) (s : State) : (setQuiesced x s).reservations = s.reservations := rfl
@[simp] theorem setQuiesced_apertures (x : Branch) (s : State) : (setQuiesced x s).apertures = s.apertures := rfl
@[simp] theorem setQuiesced_branches (x : Branch) (s : State) : (setQuiesced x s).branches = s.branches := rfl
@[simp] theorem setQuiesced_commandRefused (x : Branch) (s : State) : (setQuiesced x s).commandRefused = s.commandRefused := rfl
@[simp] theorem setQuiesced_records (x : Branch) (s : State) : (setQuiesced x s).records = s.records := rfl
@[simp] theorem setQuiesced_recordCounter (x : Branch) (s : State) : (setQuiesced x s).recordCounter = s.recordCounter := rfl
@[simp] theorem setQuiesced_overrun (x : Branch) (s : State) : (setQuiesced x s).overrun = s.overrun := rfl
@[simp] theorem setQuiesced_enables (x : Branch) (s : State) : (setQuiesced x s).enables = s.enables := rfl
@[simp] theorem setQuiesced_pending (x : Branch) (s : State) : (setQuiesced x s).pending = s.pending := rfl

@[simp] theorem onEntries_entries (f : Entry → Entry) (s : State) : (onEntries f s).entries = s.entries.map f := rfl

@[simp] theorem respond_response (m : Master) (c : ResponseCode) (l : Option Word) (s : State) :
    (respond m c l s).response = some { master := m, code := c, lanes := l } := rfl

@[simp] theorem setQuiesced_quiescedFlags (x : Branch) (s : State) :
    (setQuiesced x s).quiescedFlags = s.quiescedFlags.set x true := rfl

/-! ### The column of a branch -/

@[simp] theorem unitOf_onUnit (x y : Branch) (f : BranchUnit → BranchUnit) (s : State) :
    unitOf (onUnit x f s) y = if y = x then f (unitOf s y) else unitOf s y := by
  unfold unitOf onUnit
  by_cases h : y = x <;> simp [h]

@[simp] theorem unitOf_onEntries (y : Branch) (f : Entry → Entry) (s : State) : unitOf (onEntries f s) y = unitOf s y := rfl

@[simp] theorem unitOf_respond (y : Branch) (m : Master) (c : ResponseCode) (l : Option Word) (s : State) :
    unitOf (respond m c l s) y = unitOf s y := rfl

@[simp] theorem unitOf_setQuiesced (x y : Branch) (s : State) : unitOf (setQuiesced x s) y = unitOf s y := rfl

@[simp] theorem onUnit_onUnit (x : Branch) (f g : BranchUnit → BranchUnit) (s : State) :
    onUnit x g (onUnit x f s) = onUnit x (fun u => g (f u)) s := by
  simp [onUnit]

@[simp] theorem onUnit_id (x : Branch) (s : State) : onUnit x (fun u => u) s = s := by
  simp [onUnit]

@[simp] theorem onEntries_onEntries (f g : Entry → Entry) (s : State) :
    onEntries g (onEntries f s) = onEntries (fun e => g (f e)) s := by
  simp [onEntries, Function.comp_def]

theorem onEntries_onUnit (x : Branch) (f : Entry → Entry) (g : BranchUnit → BranchUnit) (s : State) :
    onEntries f (onUnit x g s) = onUnit x g (onEntries f s) := rfl

/-! ### The record of a node -/

theorem nodePlace_injective {n k : Node} (hn : n ≠ 0) (hk : k ≠ 0) (h : nodePlace n = nodePlace k) : n = k := by
  have h' := congrArg Fin.val h
  simp only [nodePlace] at h'
  have h1 : n.val ≠ 0 := fun h0 => hn (Fin.ext h0)
  have h2 : k.val ≠ 0 := fun h0 => hk (Fin.ext h0)
  exact Fin.ext (by omega)

theorem nodeOf_onNode_same (u : BranchUnit) {n : Node} (hn : n ≠ 0) (f : NodeRecord → NodeRecord) :
    nodeOf (onNode n f u) n = f (nodeOf u n) := by
  simp [nodeOf, onNode, hn]

theorem nodeOf_onNode_other (u : BranchUnit) {n k : Node} (hk : k ≠ 0) (h : k ≠ n) (f : NodeRecord → NodeRecord) :
    nodeOf (onNode n f u) k = nodeOf u k := by
  unfold nodeOf onNode
  split
  · rfl
  · rename_i hn
    have hne : (nodePlace n).val ≠ (nodePlace k).val := fun hv => h (nodePlace_injective hk hn (Fin.ext hv.symm))
    simp [hne]

theorem onNode_zero (f : NodeRecord → NodeRecord) (u : BranchUnit) : onNode 0 f u = u := by simp [onNode]

@[simp] theorem onNode_ctrl (n : Node) (f : NodeRecord → NodeRecord) (u : BranchUnit) : (onNode n f u).ctrl = u.ctrl := by
  unfold onNode; split <;> rfl

@[simp] theorem onNode_queue (n : Node) (f : NodeRecord → NodeRecord) (u : BranchUnit) : (onNode n f u).queue = u.queue := by
  unfold onNode; split <;> rfl

@[simp] theorem onNode_headInFlight (n : Node) (f : NodeRecord → NodeRecord) (u : BranchUnit) : (onNode n f u).headInFlight = u.headInFlight := by
  unfold onNode; split <;> rfl

@[simp] theorem onNode_postedRun (n : Node) (f : NodeRecord → NodeRecord) (u : BranchUnit) : (onNode n f u).postedRun = u.postedRun := by
  unfold onNode; split <;> rfl

@[simp] theorem onNode_probeDeferral (n : Node) (f : NodeRecord → NodeRecord) (u : BranchUnit) : (onNode n f u).probeDeferral = u.probeDeferral := by
  unfold onNode; split <;> rfl

@[simp] theorem onNode_settings (n : Node) (f : NodeRecord → NodeRecord) (u : BranchUnit) : (onNode n f u).settings = u.settings := by
  unfold onNode; split <;> rfl

@[simp] theorem onNode_engine (n : Node) (f : NodeRecord → NodeRecord) (u : BranchUnit) : (onNode n f u).engine = u.engine := by
  unfold onNode; split <;> rfl

@[simp] theorem onNode_park (n : Node) (f : NodeRecord → NodeRecord) (u : BranchUnit) : (onNode n f u).park = u.park := by
  unfold onNode; split <;> rfl

@[simp] theorem onNode_receiver (n : Node) (f : NodeRecord → NodeRecord) (u : BranchUnit) : (onNode n f u).receiver = u.receiver := by
  unfold onNode; split <;> rfl

@[simp] theorem onNode_probeSet (n : Node) (f : NodeRecord → NodeRecord) (u : BranchUnit) : (onNode n f u).probeSet = u.probeSet := by
  unfold onNode; split <;> rfl

end Sys2Proof.Machine
end

