-- ==== Sys2Proof/Laws/Ops.lean ====
section
/-! SUPPORT. For each shared operation of Ops.lean, once, all it can do: offering a record, handing a slot on, freeing slots, ending
a reservation, a departure, a drain completion. -/

namespace Sys2Proof.Machine

/-! ### `offer` -/

theorem offer_of_room (body : RecordBody) {s : State} (h : s.records.length < 16) :
    offer body s =
      { s with records := s.records ++ [{ seq := s.recordCounter, body := body }], recordCounter := s.recordCounter + 1 } := by
  simp [offer, Config.recordDepth, h]

theorem offer_of_full (body : RecordBody) {s : State} (h : 16 ≤ s.records.length) : offer body s = { s with overrun := true } := by
  have : ¬ s.records.length < 16 := by omega
  simp [offer, Config.recordDepth, this]

/-- An offer changes at most the records, the counter and the overrun flag. -/
theorem offer_frame (body : RecordBody) (s : State) :
    offer body s =
      { s with
        records := (offer body s).records, recordCounter := (offer body s).recordCounter, overrun := (offer body s).overrun } := by
  unfold offer; split <;> rfl

@[simp] theorem offer_entries (b : RecordBody) (s : State) : (offer b s).entries = s.entries := by unfold offer; split <;> rfl
@[simp] theorem offer_branches (b : RecordBody) (s : State) : (offer b s).branches = s.branches := by unfold offer; split <;> rfl
@[simp] theorem offer_waiting (b : RecordBody) (s : State) : (offer b s).waiting = s.waiting := by unfold offer; split <;> rfl
@[simp] theorem offer_reservations (b : RecordBody) (s : State) : (offer b s).reservations = s.reservations := by
  unfold offer; split <;> rfl
@[simp] theorem offer_resWindow (b : RecordBody) (s : State) : (offer b s).resWindow = s.resWindow := by unfold offer; split <;> rfl
@[simp] theorem offer_claimWindow (b : RecordBody) (s : State) : (offer b s).claimWindow = s.claimWindow := by
  unfold offer; split <;> rfl
@[simp] theorem offer_pending (b : RecordBody) (s : State) : (offer b s).pending = s.pending := by unfold offer; split <;> rfl
@[simp] theorem offer_phase (b : RecordBody) (s : State) : (offer b s).phase = s.phase := by unfold offer; split <;> rfl
@[simp] theorem unitOf_offer (b : RecordBody) (s : State) (x : Branch) : unitOf (offer b s) x = unitOf s x := by
  unfold offer; split <;> rfl
@[simp] theorem drained_offer (b : RecordBody) (s : State) (x : Branch) : drained (offer b s) x = drained s x := by
  unfold offer; split <;> rfl

/-! ### Handing slots on -/

theorem handOver_of_none {k : Slot} {s : State} (h : s.waiting = []) : handOver k s = s := by simp [handOver, h]

theorem handOver_of_head {k : Slot} {s : State} {m : Master} {rest : List Master} (h : s.waiting = m :: rest) :
    handOver k s =
      { s with waiting := rest, reservations := s.reservations.set m (some { slot := k, remaining := s.resWindow * 4 }) } := by
  simp [handOver, h, Config.reservationUnit]

/-- Handing a slot on changes at most the waiting list and the reservations. -/
theorem handOver_frame (k : Slot) (s : State) :
    handOver k s = { s with waiting := (handOver k s).waiting, reservations := (handOver k s).reservations } := by
  unfold handOver; split <;> rfl

theorem handOver_handedOver (k : Slot) (s : State) : HandedOver [k] s (handOver k s) := by
  cases h : s.waiting with
  | nil => simp [handOver_of_none h, HandedOver, h]
  | cons m rest =>
    rw [handOver_of_head h]
    refine ⟨by simp [h], ?_, ?_⟩
    · intro i m' k' hm hk
      cases i <;> simp_all
    · intro m' hm'
      simp [h] at hm'
      simp [hm']

theorem freeSlot_frame (k : Slot) (s : State) :
    freeSlot k s =
      { s with
        entries := s.entries.filter (fun e => e.slot ≠ k)
        waiting := (freeSlot k s).waiting
        reservations := (freeSlot k s).reservations } := by
  unfold freeSlot; exact handOver_frame _ _

theorem freeSlot_handedOver (k : Slot) (s : State) : HandedOver [k] s (freeSlot k s) :=
  handOver_handedOver k { s with entries := s.entries.filter (fun e => e.slot ≠ k) }

/-- Slots handed on one after another, while no master is twice on the list. -/
theorem HandedOver.trans {ks js : List Slot} {s t u : State} (hw : s.waiting.Nodup) (hr : t.resWindow = s.resWindow)
    (h1 : HandedOver ks s t) (h2 : HandedOver js t u) : HandedOver (ks ++ js) s u := by
  obtain ⟨a1, b1, c1⟩ := h1
  obtain ⟨a2, b2, c2⟩ := h2
  have hcut : ∀ {i m}, s.waiting[i]? = some m → i < ks.length → m ∉ t.waiting.take js.length := by
    intro i m hm hi hmem
    rw [a1] at hmem
    obtain ⟨j, hj, hjm⟩ := List.getElem_of_mem (List.mem_of_mem_take hmem)
    rw [List.getElem_drop] at hjm
    obtain ⟨hi', him⟩ := List.getElem?_eq_some_iff.1 hm
    have := (List.Nodup.getElem_inj_iff hw).1 (him.trans hjm.symm)
    omega
  refine ⟨by rw [a2, a1, List.drop_drop, List.length_append], ?_, ?_⟩
  · intro i m k hm hk
    by_cases hi : i < ks.length
    · rw [List.getElem?_append_left hi] at hk
      rw [c2 m (hcut hm hi), b1 i m k hm hk]
    · rw [List.getElem?_append_right (by omega)] at hk
      have hm' : t.waiting[i - ks.length]? = some m := by
        rw [a1, List.getElem?_drop, show ks.length + (i - ks.length) = i by omega, hm]
      rw [b2 _ m k hm' hk, hr]
  · intro m hm
    rw [List.length_append, List.take_add, List.mem_append, not_or] at hm
    rw [c2 m (by rw [a1]; exact hm.2), c1 m hm.1]

/-- Slots freed one after another: the entries that go, the slots handed on in the list's order, and nothing else. -/
theorem freeSlots_spec (ks : List Slot) (s : State) (hw : s.waiting.Nodup) :
    HandedOver ks s (ks.foldl (fun t k => freeSlot k t) s) ∧
    ks.foldl (fun t k => freeSlot k t) s =
      { s with
        entries := s.entries.filter (fun e => decide (e.slot ∉ ks))
        waiting := (ks.foldl (fun t k => freeSlot k t) s).waiting
        reservations := (ks.foldl (fun t k => freeSlot k t) s).reservations } := by
  induction ks generalizing s with
  | nil => simp [HandedOver]
  | cons k ks ih =>
    have hwk : (freeSlot k s).waiting.Nodup := by
      rw [(freeSlot_handedOver k s).1]; exact hw.sublist (List.drop_sublist _ _)
    obtain ⟨i1, i2⟩ := ih (freeSlot k s) hwk
    have hr : (freeSlot k s).resWindow = s.resWindow := by rw [freeSlot_frame]
    refine ⟨(freeSlot_handedOver k s).trans hw hr i1, ?_⟩
    rw [List.foldl_cons]
    generalize hu : List.foldl (fun t k => freeSlot k t) (freeSlot k s) ks = u at i2 ⊢
    rw [i2, freeSlot_frame]
    have hf : List.filter (fun e => decide (e.slot ∉ ks)) (List.filter (fun e => decide (e.slot ≠ k)) s.entries)
        = List.filter (fun e => decide (e.slot ∉ k :: ks)) s.entries := by
      rw [List.filter_filter]
      congr 1
      funext e
      simp [List.mem_cons, not_or, Bool.and_comm]
    rw [hf]

/-! ### The slots whose entries meet a condition -/

theorem allSlots_eq : allSlots = List.finRange 12 := by decide

theorem mem_slotsWhere (p : Entry → Bool) (s : State) (k : Slot) : k ∈ slotsWhere p s ↔ ∃ e ∈ s.entries, e.slot = k ∧ p e = true := by
  simp [slotsWhere, allSlots_eq]

theorem slotsWhere_nodup (p : Entry → Bool) (s : State) : (slotsWhere p s).Nodup := by
  unfold slotsWhere; exact List.Nodup.filter _ (by decide)

/-- With no slot held twice, the entries outside those slots are the entries that do not meet the condition. -/
theorem filter_not_slotsWhere (p : Entry → Bool) {s : State} (hn : (s.entries.map Entry.slot).Nodup) :
    s.entries.filter (fun e => decide (e.slot ∉ slotsWhere p s)) = s.entries.filter (fun e => !p e) := by
  apply List.filter_congr
  intro e he
  have : e.slot ∈ slotsWhere p s ↔ p e = true := by
    rw [mem_slotsWhere]
    refine ⟨fun ⟨f, hf, hs, hp⟩ => ?_, fun hp => ⟨e, he, rfl, hp⟩⟩
    rwa [List.inj_on_of_nodup_map hn hf he hs] at hp
  by_cases hp : p e = true <;> simp [this, hp]

/-- With no slot held twice, there are as many such slots as entries that meet the condition. -/
theorem length_slotsWhere (p : Entry → Bool) {s : State} (hn : (s.entries.map Entry.slot).Nodup) :
    (slotsWhere p s).length = s.entries.countP p := by
  have h2 : ((s.entries.filter p).map Entry.slot).Nodup := hn.sublist (List.Sublist.map _ List.filter_sublist)
  have h : (slotsWhere p s).Perm ((s.entries.filter p).map Entry.slot) := by
    rw [List.perm_ext_iff_of_nodup (slotsWhere_nodup p s) h2]
    intro k
    rw [mem_slotsWhere]
    simp only [List.mem_map, List.mem_filter]
    exact ⟨fun ⟨e, a, b, c⟩ => ⟨e, ⟨a, c⟩, b⟩, fun ⟨e, ⟨a, c⟩, b⟩ => ⟨e, a, b, c⟩⟩
  rw [h.length_eq, List.length_map, List.countP_eq_length_filter]

/-- Freeing every slot whose entry meets a condition: those entries go, the slots are handed on in ascending order. -/
theorem freeSlotsWhere_spec (p : Entry → Bool) {s : State} (hn : (s.entries.map Entry.slot).Nodup) (hw : s.waiting.Nodup) :
    HandedOver (slotsWhere p s) s (freeSlotsWhere p s) ∧
    freeSlotsWhere p s =
      { s with
        entries := s.entries.filter (fun e => !p e)
        waiting := (freeSlotsWhere p s).waiting
        reservations := (freeSlotsWhere p s).reservations } := by
  have h := freeSlots_spec (slotsWhere p s) s hw
  rw [filter_not_slotsWhere p hn] at h
  exact h

/-! ### Ending a reservation -/

theorem endReservation_of_none {m : Master} {s : State} (h : s.reservations.get m = none) : endReservation m s = s := by
  simp [endReservation, h]

theorem endReservation_of_some {m : Master} {r : Reservation} {s : State} (h : s.reservations.get m = some r) :
    endReservation m s = handOver r.slot { s with reservations := s.reservations.set m none } := by
  simp [endReservation, h]

/-! ### Entry states -/

theorem isPending_iff (e : Entry) : isPending e = true ↔ e.state = .pending := by
  unfold isPending; split <;> simp_all

theorem isIssued_iff (e : Entry) : isIssued e = true ↔ ∃ ab, e.state = .issued ab := by
  unfold isIssued; split <;> simp_all

theorem isReady_iff (e : Entry) : isReady e = true ↔ ∃ o d c, e.state = .ready o d c := by
  unfold isReady; split <;> simp_all

/-- With no slot held twice, the entry in a slot is the one that names it. -/
theorem entryAt_of_mem {s : State} {e : Entry} (hn : (s.entries.map Entry.slot).Nodup) (he : e ∈ s.entries) :
    entryAt s e.slot = some e := by
  unfold entryAt
  cases hf : s.entries.find? (fun f => decide (f.slot = e.slot)) with
  | none => simpa using List.find?_eq_none.1 hf e he
  | some f =>
    have hs : f.slot = e.slot := by simpa using List.find?_some hf
    rw [List.inj_on_of_nodup_map hn (List.mem_of_find?_eq_some hf) he hs]

/-! ### Departures -/

theorem departHead_eq (x : Branch) (s : State) :
    departHead x s =
      { s with
        branches := s.branches.set x { unitOf s x with queue := (unitOf s x).queue.tail, headInFlight := false }
        entries := s.entries.map (fun e =>
          if e.branch = x ∧ e.state = .pending then { e with postedAhead := e.postedAhead - 1 } else e) } := by
  unfold departHead onEntries onUnit unitOf
  congr 1
  apply List.map_congr_left
  intro e _
  simp only [lowerAhead, Bool.and_eq_true, isPending_iff, decide_eq_true_eq, and_comm]

/-! ### Drains -/

theorem drained_iff (s : State) (x : Branch) : drained s x = true ↔ Drained s x := by
  simp only [drained, Drained, Bool.and_eq_true, List.isEmpty_iff, Bool.not_eq_true', List.any_eq_false, Option.isNone_iff_eq_none,
    decide_eq_true_eq]
  constructor
  · rintro ⟨⟨⟨⟨h1, h2⟩, h3⟩, h4⟩, h5⟩
    refine ⟨h1, fun e he hx => ?_, h3, h4, h5⟩
    have := h2 e he
    simp_all
  · rintro ⟨h1, h2, h3, h4, h5⟩
    refine ⟨⟨⟨⟨h1, fun e he => ?_⟩, h3⟩, h4⟩, h5⟩
    by_cases hx : e.branch = x
    · simp [h2 e he hx]
    · simp [hx]

theorem completeDrain_of_drained {x : Branch} {s : State} (hc : (unitOf s x).ctrl = .draining) (hd : Drained s x) :
    completeDrain x s = drainedState x s := by
  rw [completeDrain, if_pos ⟨hc, (drained_iff s x).2 hd⟩]
  rfl

theorem completeDrain_of_not {x : Branch} {s : State} (h : ¬ ((unitOf s x).ctrl = .draining ∧ Drained s x)) :
    completeDrain x s = s := by
  rw [← drained_iff] at h
  simp [completeDrain, h]

end Sys2Proof.Machine
end

