-- ==== Sys2Proof/Laws/Admission.lean ====
section
/-! SUPPORT. What each test of admission decides, in the manual's words: matching, decode, translation, open slots; and where an
access that passes them goes. -/

namespace Sys2Proof.Machine

theorem noData_eq (k : Kind) : noData k = zeroLanes k := by cases k <;> rfl

/-! ### The first of a list -/

/-- What `find?` gives is the first that meets the test. -/
theorem find?_eq_some_first {α : Type} {p : α → Bool} {P : α → Prop} (hp : ∀ a, p a = true ↔ P a) (l : List α) (a : α) :
    l.find? p = some a ↔ P a ∧ ∃ older younger, l = older ++ a :: younger ∧ ∀ f ∈ older, ¬ P f := by
  rw [List.find?_eq_some_iff_append]
  simp only [hp, Bool.not_eq_true', ← Bool.not_eq_true]

theorem find?_eq_none_all {α : Type} {p : α → Bool} {P : α → Prop} (hp : ∀ a, p a = true ↔ P a) (l : List α) :
    l.find? p = none ↔ ∀ f ∈ l, ¬ P f := by
  simp [List.find?_eq_none, ← hp]

/-! ### Matching -/

theorem wordAddr_eq_iff (a b : HostAddr) : wordAddr a = wordAddr b ↔ a.toNat / 4 = b.toNat / 4 := by
  unfold wordAddr; omega

theorem matches_iff (a : Access) (w : Width) (e : Entry) :
    (exactMatch a w e || aliasMatch a e) = true ↔ Matches a w e := by
  simp only [exactMatch, aliasMatch, Matches, Bool.or_eq_true, Bool.and_eq_true, decide_eq_true_eq, wordAddr_eq_iff, accessData,
    carried]
  constructor
  · rintro (⟨⟨⟨⟨h1, h2⟩, h3⟩, h4⟩, h5⟩ | ⟨⟨⟨⟨h1, h2⟩, h3⟩, h4⟩, h5⟩)
    · refine ⟨h1, h2, .inl ⟨h3, h4, fun hk => ?_⟩⟩
      rw [h2] at hk
      simp_all
    · exact ⟨h1, by rw [h2, h4], .inr ⟨h2, h3, h5⟩⟩
  · rintro ⟨h1, h2, ⟨h3, h4, h5⟩ | ⟨h3, h4, h5⟩⟩
    · refine .inl ⟨⟨⟨⟨h1, h2⟩, h3⟩, h4⟩, ?_⟩
      cases hk : e.kind with
      | read => exact .inl rfl
      | write =>
        have ha : a.kind = .write := by rw [← h2, hk]
        exact .inr (by simp only [ha]; simpa using h5 hk)
    · exact .inr ⟨⟨⟨⟨h1, h3⟩, h4⟩, by rw [← h2, h3]⟩, h5⟩

theorem repeatOf_eq_some {a : Access} {w : Width} {s : State} {e : Entry} : repeatOf a w s = some e ↔ OldestMatch a w s e :=
  find?_eq_some_first (matches_iff a w) s.entries e

theorem repeatOf_eq_none {a : Access} {w : Width} {s : State} : repeatOf a w s = none ↔ ∀ e ∈ s.entries, ¬ Matches a w e :=
  find?_eq_none_all (matches_iff a w) s.entries

/-! ### Decode -/

theorem effectiveBase_eq (p : Aperture) : effectiveBase p = roundedBase p (p.basePage.toNat * 256) := by
  unfold effectiveBase roundedBase apertureSize windowLength
  have := Nat.div_add_mod (p.basePage.toNat * 256) (256 * 2 ^ p.sizeCode)
  rw [Nat.mul_comm] at this
  omega

theorem effectiveRegBase_eq (p : Aperture) : effectiveRegBase p = roundedBase p p.regBase.toNat := by
  unfold effectiveRegBase roundedBase apertureSize windowLength
  have := Nat.div_add_mod p.regBase.toNat (256 * 2 ^ p.sizeCode)
  rw [Nat.mul_comm] at this
  omega

theorem contains_iff (p : Aperture) (addr : HostAddr) : apertureContains p addr = true ↔ ContainsAddr p addr.toNat := by
  simp [apertureContains, ContainsAddr, effectiveBase_eq, apertureSize, windowLength, and_assoc]

theorem permitted_iff (p : Aperture) (k : Kind) : permitted p k = true ↔ Permits p k := by
  cases k <;> simp [permitted, Permits]

theorem regAddrOf_eq (p : Aperture) (a : Access) : regAddrOf p a = registerOf p a := by
  have hw : wordAddr a.addr = a.addr.toNat - a.addr.toNat % 4 := by unfold wordAddr; omega
  cases hk : a.kind <;> cases hf : p.wordFetch <;>
    simp [regAddrOf, registerOf, widened, hk, hf, translate, translated, effectiveBase_eq, effectiveRegBase_eq, hw]

theorem fetchWidthOf_eq (p : Aperture) (a : Access) (w : Width) : fetchWidthOf p a.kind w = fetchOf p a w := by
  cases hk : a.kind <;> cases hf : p.wordFetch <;> simp [fetchWidthOf, fetchOf, widened, hk, hf]

theorem decodeAperture_eq_some {s : State} {addr : HostAddr} {n : Fin 16} (h : LowestContaining s addr.toNat n) :
    decodeAperture s addr = some s.apertures[n.val] := by
  have hn : n.val < s.apertures.toList.length := by simp
  unfold decodeAperture
  rw [List.find?_eq_some_iff_getElem]
  refine ⟨(contains_iff _ _).2 h.1, n.val, hn, by simp, fun j hj => ?_⟩
  have hj16 : j < 16 := by omega
  have := h.2 ⟨j, hj16⟩ (by simpa [Fin.lt_def] using hj)
  rw [← contains_iff] at this
  simpa using this

theorem decodeAperture_eq_none {s : State} {addr : HostAddr} (h : ∀ n : Fin 16, ¬ ContainsAddr s.apertures[n.val] addr.toNat) :
    decodeAperture s addr = none := by
  unfold decodeAperture
  rw [List.find?_eq_none]
  intro p hp
  obtain ⟨j, hj, rfl⟩ := List.getElem_of_mem hp
  have := h ⟨j, by simpa using hj⟩
  rw [← contains_iff] at this
  simpa using this

theorem postedRoute_iff (a : Access) (p : Aperture) : postedRoute p a.kind = true ↔ IsPosted a p := by
  simp [postedRoute, IsPosted]

theorem newPosted_eq {a : Access} {w : Width} {p : Aperture} (h : a.kind = .write) : newPosted a w p = postedOf a w p := by
  simp [newPosted, postedOf, regAddrOf_eq, accessData, carried, h]

theorem newEntry_eq (a : Access) (w : Width) (p : Aperture) (k : Slot) (s : State) :
    newEntry a w p k s = entryOf a w p (unitOf s p.branch).queue.length k := by
  cases hk : a.kind <;>
    simp [newEntry, entryOf, regAddrOf_eq, ← fetchWidthOf_eq, accessData, carried, hk]

/-! ### Open slots -/

theorem slotOpen_iff (s : State) (k : Slot) : slotOpen s k = true ↔ OpenSlot s k := by
  simp only [slotOpen, slotFree, slotReserved, OpenSlot, Bool.and_eq_true, Bool.not_eq_true', List.any_eq_false, decide_eq_true_eq]
  refine and_congr_right fun _ => ⟨fun h m r hr hk => ?_, fun h m _ => ?_⟩
  · have hm : m ∈ allMasters := by fin_cases m <;> decide
    exact h m hm (by simp [hr, hk])
  · cases hr : s.reservations.get m with
    | none => simp
    | some r => simpa using h m r hr

theorem lowestOpen_eq_some {s : State} {k : Slot} (h : OpenSlot s k) (hl : ∀ j < k, ¬ OpenSlot s j) : lowestOpen s = some k := by
  unfold lowestOpen
  rw [allSlots_eq, List.find?_eq_some_iff_getElem]
  refine ⟨(slotOpen_iff s k).2 h, k.val, by simp, by simp, fun j hj => ?_⟩
  have := hl ⟨j, by omega⟩ hj
  rw [← slotOpen_iff] at this
  simpa using this

theorem lowestOpen_eq_none {s : State} (h : ∀ k, ¬ OpenSlot s k) : lowestOpen s = none := by
  unfold lowestOpen
  rw [List.find?_eq_none]
  intro k _
  rw [slotOpen_iff]
  exact h k

/-! ### Where an access goes -/

theorem runAdmission_of_repeat {a : Access} {w : Width} {e : Entry} {s : State} (h : ReachesSearch a w s) (hm : OldestMatch a w s e) :
    runAdmission a s = answerRepeat a w e s := by
  obtain ⟨hp, hw, ha⟩ := h
  have : ¬ a.addr.toNat < 4096 := by omega
  simp [runAdmission, hp, hw, Config.windowSize, this, repeatOf_eq_some.2 hm]

theorem runAdmission_of_reachesDecode {a : Access} {w : Width} {s : State} (h : ReachesDecode a w s) : runAdmission a s = newRequest a w s := by
  obtain ⟨⟨hp, hw, ha⟩, hm⟩ := h
  have : ¬ a.addr.toNat < 4096 := by omega
  simp [runAdmission, hp, hw, Config.windowSize, this, repeatOf_eq_none.2 hm]

theorem runAdmission_of_reachesBranch {a : Access} {w : Width} {n : Fin 16} {s : State} (h : ReachesBranch a w n s) :
    runAdmission a s = admitDecoded a w s.apertures[n.val] s := by
  obtain ⟨hd, hl, hp, hb⟩ := h
  rw [runAdmission_of_reachesDecode hd, newRequest, decodeAperture_eq_some hl]
  have hb' : ¬ (a.kind = .read ∧ s.apertures[n.val].node = 0) := fun ⟨h1, h2⟩ => hb h1 h2
  simp [(permitted_iff _ _).2 hp, hb']

theorem runAdmission_of_posted {a : Access} {w : Width} {n : Fin 16} {s : State} (h : ReachesRoute a w n s)
    (hp : IsPosted a s.apertures[n.val]) : runAdmission a s = admitPosted a w s.apertures[n.val] s := by
  obtain ⟨hb, hc, ho⟩ := h
  rw [runAdmission_of_reachesBranch hb, admitDecoded, hc]
  simp [admitActive, ho, (postedRoute_iff _ _).2 hp]

theorem runAdmission_of_deferred {a : Access} {w : Width} {n : Fin 16} {s : State} (h : ReachesRoute a w n s)
    (hp : ¬ IsPosted a s.apertures[n.val]) : runAdmission a s = admitDeferred a w s.apertures[n.val] s := by
  obtain ⟨hb, hc, ho⟩ := h
  have hr : postedRoute s.apertures[n.val] a.kind = false := by
    rw [← Bool.not_eq_true, postedRoute_iff]; exact hp
  rw [runAdmission_of_reachesBranch hb, admitDecoded, hc]
  simp [admitActive, ho, hr]

theorem respondFailed_eq (a : Access) (w : Width) (mode : ErrorMode) (s : State) :
    respondFailed a w mode s = respond a.master (failedAnswer a w mode).1 (failedAnswer a w mode).2 s := by
  cases hk : a.kind <;> cases mode <;>
    simp [respondFailed, failedAnswer, hk, respondFault, respondData, respondTaken, noData_eq]

/-- A write to a register has no effect exactly where the map marks the register R. -/
theorem writeReg_eq_none (r : Reg) (w : Word) (s : State) : writeReg r w s = none ↔ readOnly r = true := by
  cases r <;> simp [writeReg, readOnly]

end Sys2Proof.Machine
end

