-- ==== Sys2Proof/Laws/Link.lean ====
section
/-! SUPPORT. What the parts of a transaction's end touch: copied counts and a dropped reception leave the rest of the column; the
node's record and the source change what section 6.6 and chapter 7 name. -/

namespace Sys2Proof.Machine

/-- Copied counts change at most the head record. -/
theorem copyCounts_frame (tx : Txn) (u : BranchUnit) : copyCounts tx u = { u with queue := (copyCounts tx u).queue } := by
  unfold copyCounts; split <;> rfl

/-- Copied counts are the queue that follows the transaction (R68). -/
theorem copyCounts_eq (tx : Txn) (u : BranchUnit) : copyCounts tx u = { u with queue := queueFollowing tx u.queue } := by
  unfold copyCounts queueFollowing
  cases tx.source <;> cases hq : u.queue <;> simp [← hq]

@[simp] theorem copyCounts_settings (tx : Txn) (u : BranchUnit) : (copyCounts tx u).settings = u.settings := by
  rw [copyCounts_frame]

/-- A dropped reception changes at most the receiver, which is then clear unless it ignores a frame. -/
theorem dropReception_eq (u : BranchUnit) :
    dropReception u = { u with receiver := if u.receiver = .ignoring then .ignoring else .clear } := by
  unfold dropReception
  obtain ⟨c, q, h, pr, pd, st, en, pk, rc, ns, ps⟩ := u
  cases rc <;> simp

@[simp] theorem dropReception_settings (u : BranchUnit) : (dropReception u).settings = u.settings := by rw [dropReception_eq]
@[simp] theorem dropReception_nodes (u : BranchUnit) : (dropReception u).nodes = u.nodes := by rw [dropReception_eq]
@[simp] theorem dropReception_queue (u : BranchUnit) : (dropReception u).queue = u.queue := by rw [dropReception_eq]

/-- The rate in force depends on the settings and the divisor alone. -/
theorem lineRate_congr {s t : State} {x : Branch} (h : (unitOf s x).settings = (unitOf t x).settings) (hd : s.divisor = t.divisor) :
    lineRate s x = lineRate t x := by
  simp [lineRate, h, hd]

@[simp] theorem lineRate_onUnit (x : Branch) (f : BranchUnit → BranchUnit) (s : State) (h : (f (unitOf s x)).settings = (unitOf s x).settings) :
    lineRate (onUnit x f s) x = lineRate s x := lineRate_congr (by simpa using h) rfl

/-- The end of a transaction is the end of `Safety.lean`. -/
theorem endTxn_eq (x : Branch) (tx : Txn) (e : TxEnd) (s : State) : endTxn x tx e s = Ended x tx e s := rfl

theorem silence_of_room {x : Branch} {tx : Txn} {s : State} (h : tx.resendsUsed < (unitOf s x).settings.resendLimit) :
    silence x tx s =
      onUnit x (fun u =>
        { copyCounts { tx with resendsUsed := tx.resendsUsed + 1 } (dropReception u) with
          engine := .transmit { tx with resendsUsed := tx.resendsUsed + 1 } (lineRate s x) }) s := by
  rw [silence, if_pos h, startSend, onUnit_onUnit, lineRate_onUnit _ _ _ (by simp)]

theorem silence_of_limit {x : Branch} {tx : Txn} {s : State} (h : (unitOf s x).settings.resendLimit ≤ tx.resendsUsed) :
    silence x tx s = Ended x tx .noReply s := by
  rw [silence, if_neg (by omega), endTxn_eq]

end Sys2Proof.Machine
end

