-- ==== Sys2Proof/Laws/Scheduler.lean ====
section
/-! SUPPORT. The candidates of a choice event are those of section 5.2, and the drops of OFFLINE heads touch the queue, the node
records and the posted-ahead counts alone. -/

namespace Sys2Proof.Machine

theorem mayChoose_iff (u : BranchUnit) : mayChoose u = true ↔ MayChoose u := by simp [mayChoose, MayChoose]

theorem parkedNode_ne_iff (u : BranchUnit) (n : Node) : parkedNode u ≠ some n ↔ ∀ p, u.park = some p → p.tx.node ≠ n := by
  unfold parkedNode; cases u.park <;> simp

theorem candidateK_iff (u : BranchUnit) (tx : Txn) : candidateK u = some tx ↔ IsK u tx := by
  unfold candidateK IsK
  cases h : u.park with
  | none => simp
  | some p => obtain ⟨t, d⟩ := p; cases d <;> simp

theorem candidateP_iff (u : BranchUnit) (r : PostedRecord) : candidateP u = some r ↔ IsP u r := by
  unfold candidateP IsP
  cases h : u.queue with
  | nil => simp
  | cons q rest =>
    have hn := parkedNode_ne_iff u q.node
    simp only [List.head?_cons, Option.some.injEq]
    constructor
    · intro hp
      split at hp
      · cases hp
      · rename_i hc
        cases hp
        simp only [Bool.or_eq_true, decide_eq_true_eq, not_or] at hc
        exact ⟨rfl, by simpa using hc.1, hn.1 hc.2⟩
    · rintro ⟨rfl, hf, hp⟩
      simp [hf, hn.2 hp]

theorem mayBeD_iff (x : Branch) (s : State) (e : Entry) :
    (isPending e && e.branch = x && e.postedAhead = 0 && parkedNode (unitOf s x) ≠ some e.node) = true ↔ MayBeD x s e := by
  have hn := parkedNode_ne_iff (unitOf s x) e.node
  simp only [Bool.and_eq_true, decide_eq_true_eq, isPending_iff, MayBeD, hn, and_assoc]

theorem candidateD_iff (x : Branch) (s : State) (e : Entry) : candidateD x s = some e ↔ IsD x s e :=
  find?_eq_some_first (mayBeD_iff x s) s.entries e

theorem mayBeQ_iff (u : BranchUnit) (n : Node) : n ∈ u.probeSet ∧ decide (parkedNode u ≠ some n) = true ↔ MayBeQ u n := by
  rw [decide_eq_true_eq, parkedNode_ne_iff]; rfl

/-- The probe set is kept lowest first, so the first member that is not the parked node is the lowest. -/
theorem candidateQ_iff (u : BranchUnit) (n : Node) (hp : u.probeSet.Pairwise (· < ·)) : candidateQ u = some n ↔ IsQ u n := by
  unfold candidateQ
  constructor
  · intro h
    refine ⟨(mayBeQ_iff u n).1 ⟨List.mem_of_find?_eq_some h, by simpa using List.find?_some h⟩, fun k hk => ?_⟩
    have hkp := (mayBeQ_iff u k).2 hk
    obtain ⟨-, as, bs, hl, hnot⟩ := List.find?_eq_some_iff_append.1 h
    have hmem := hkp.1
    rw [hl, List.mem_append, List.mem_cons] at hmem
    rw [hl] at hp
    rcases hmem with hm | rfl | hm
    · exact absurd hkp.2 (by simpa using hnot k hm)
    · exact le_refl _
    · exact le_of_lt ((List.pairwise_cons.1 (List.pairwise_append.1 hp).2.1).1 k hm)
  · rintro ⟨hn, hmin⟩
    have hnp := (mayBeQ_iff u n).2 hn
    cases hf : u.probeSet.find? (fun k => decide (parkedNode u ≠ some k)) with
    | none => exact absurd hnp.2 (by simpa using List.find?_eq_none.1 hf n hnp.1)
    | some k =>
      have hk : MayBeQ u k := (mayBeQ_iff u k).1 ⟨List.mem_of_find?_eq_some hf, by simpa using List.find?_some hf⟩
      obtain ⟨-, as, bs, hl, hnot⟩ := List.find?_eq_some_iff_append.1 hf
      have hmem := hnp.1
      rw [hl, List.mem_append, List.mem_cons] at hmem
      rw [hl] at hp
      rcases hmem with hm | rfl | hm
      · exact absurd hnp.2 (by simpa using hnot n hm)
      · rfl
      · exact congrArg some (le_antisymm
          (le_of_lt ((List.pairwise_cons.1 (List.pairwise_append.1 hp).2.1).1 n hm)) (hmin k hk))

/-! ### Drops -/

theorem dropHead_frame (x : Branch) (n : Node) (s : State) :
    dropHead x n s =
      { s with branches := (dropHead x n s).branches, entries := (dropHead x n s).entries } := rfl

theorem offlineRun_of_head {u : BranchUnit} (h : NoOfflineHead u) : offlineRun u = [] := by
  unfold offlineRun
  rcases h with h | h
  · simp [h]
  · cases hq : u.queue with
    | nil => simp
    | cons r rest => simp [h r (by simp [hq])]

theorem dropOfflineHeads_of_head {x : Branch} {s : State} (h : NoOfflineHead (unitOf s x)) : dropOfflineHeads x s = s := by
  simp [dropOfflineHeads, offlineRun_of_head h]

end Sys2Proof.Machine
end

