-- ==== Sys2Proof/Laws/Timers.lean ====
section
/-! SUPPORT. The tick: what a timer has left before and after it, which timers it brings to zero, and the order their expiries are
taken in (R159). -/

namespace Sys2Proof.Machine

/-! ### The timers of the part -/

theorem mem_allTimers (t : Timer) : t ∈ allTimers := by
  cases t with
  | claim k => revert k; decide
  | reservation m => revert m; decide
  | replyWindow x => cases x <;> decide
  | parkedHold x => cases x <;> decide
  | backoffHold x => cases x <;> decide

theorem allTimers_nodup : allTimers.Nodup := by decide

/-! ### The time left -/

@[simp] theorem tickEntry_slot (e : Entry) : (tickEntry e).slot = e.slot := by unfold tickEntry; split <;> rfl

theorem entryAt_lowerTimers (k : Slot) (s : State) : entryAt (lowerTimers s) k = (entryAt s k).map tickEntry := by
  simp [entryAt, lowerTimers, List.find?_map]

theorem reservations_lowerTimers (m : Master) (s : State) :
    (lowerTimers s).reservations.get m = tickReservation (s.reservations.get m) := by
  match m with
  | 0 => rfl
  | 1 => rfl
  | 2 => rfl
  | 3 => rfl

theorem unitOf_lowerTimers (x : Branch) (s : State) : unitOf (lowerTimers s) x = tickUnit (unitOf s x) := by
  cases x <;> rfl

/-- A tick leaves every running timer one less, and starts and stops none. -/
theorem timeLeft_lowerTimers (t : Timer) (s : State) : timeLeft t (lowerTimers s) = (timeLeft t s).map (· - 1) := by
  cases t with
  | claim k =>
    simp only [timeLeft, entryAt_lowerTimers, Option.map_map]
    cases entryAt s k with
    | none => rfl
    | some e =>
      simp only [Option.map_some, Function.comp_apply, tickEntry]
      rcases he : e.state with _ | _ | ⟨o, d, _ | n⟩ <;> simp [he]
  | reservation m => cases h : s.reservations.get m <;> simp [timeLeft, reservations_lowerTimers, tickReservation, h]
  | replyWindow x =>
    simp only [timeLeft, unitOf_lowerTimers, tickUnit]
    cases (unitOf s x).engine <;> rfl
  | parkedHold x =>
    simp only [timeLeft, unitOf_lowerTimers, tickUnit, tickPark]
    rcases (unitOf s x).park with _ | ⟨tx, n | _⟩ <;> rfl
  | backoffHold x =>
    simp only [timeLeft, unitOf_lowerTimers, tickUnit]
    cases (unitOf s x).engine <;> rfl

/-- With one entry to a slot, one tick brings a timer to zero exactly when it runs with at most one tick left. -/
theorem reachesZero_iff {s : State} (h : (s.entries.map Entry.slot).Nodup) (t : Timer) :
    ReachesZero s t ↔ ∃ n, timeLeft t s = some n ∧ n ≤ 1 := by
  cases t with
  | claim k =>
    simp only [ReachesZero, timeLeft]
    constructor
    · rintro ⟨e, he, rfl, o, d, n, hs, hn⟩
      exact ⟨n, by simp [entryAt_of_mem h he, hs], hn⟩
    · rintro ⟨n, hl, hn⟩
      cases he : entryAt s k with
      | none => simp [he] at hl
      | some e =>
        rcases hs : e.state with _ | _ | ⟨o, d, left⟩ <;> simp [he, hs] at hl
        exact ⟨e, List.mem_of_find?_eq_some he, by simpa using List.find?_some he, o, d, n, by rw [hs, hl], hn⟩
  | reservation m =>
    simp only [ReachesZero, timeLeft, Option.map_eq_some_iff]
    constructor
    · rintro ⟨r, hr, hn⟩; exact ⟨_, ⟨r, hr, rfl⟩, hn⟩
    · rintro ⟨n, ⟨r, hr, rfl⟩, hn⟩; exact ⟨r, hr, hn⟩
  | replyWindow x => cases he : (unitOf s x).engine <;> simp [ReachesZero, timeLeft, he]
  | parkedHold x => rcases hp : (unitOf s x).park with _ | ⟨tx, n | _⟩ <;> simp [ReachesZero, timeLeft, hp]
  | backoffHold x => cases he : (unitOf s x).engine <;> simp [ReachesZero, timeLeft, he]

theorem timeLeft_lowerTimers_eq_zero_iff {s : State} (h : (s.entries.map Entry.slot).Nodup) (t : Timer) :
    timeLeft t (lowerTimers s) = some 0 ↔ ReachesZero s t := by
  rw [reachesZero_iff h, timeLeft_lowerTimers]
  cases timeLeft t s <;> simp; omega

/-! ### The order of the expiries -/

theorem mem_expiryOrder {order : List Timer} {s : State} {t : Timer} : t ∈ expiryOrder order s ↔ timeLeft t s = some 0 := by
  simp only [expiryOrder, List.mem_append, List.mem_filter, mem_allTimers, true_and, Bool.and_eq_true, decide_eq_true_eq,
    Bool.not_eq_true', List.contains_eq_mem, decide_eq_false_iff_not]
  tauto

theorem expiryOrder_nodup {order : List Timer} (h : order.Nodup) (s : State) : (expiryOrder order s).Nodup := by
  refine List.Nodup.append (h.filter _) (allTimers_nodup.filter _) fun t h1 h2 => ?_
  simp only [List.mem_filter, Bool.and_eq_true, Bool.not_eq_true', List.contains_eq_mem, decide_eq_false_iff_not] at h1 h2
  exact h2.2.2 h1.1

theorem filter_prefix_expiryOrder (order : List Timer) (s : State) :
    order.filter (fun t => t ∈ expiryOrder order s) <+: expiryOrder order s := by
  simp only [mem_expiryOrder]
  exact List.prefix_append _ _

/-! ### Expiries that do not arise -/

/-- The expiry of a timer that does not run, or has more than the one tick left, changes nothing (R11, R20, R39). -/
theorem expire_of_not_due {t : Timer} {s : State} (h : ∀ n, timeLeft t s = some n → 1 < n) : expire t s = s := by
  cases t with
  | claim k =>
    simp only [expire, expireClaim]
    cases he : entryAt s k with
    | none => rfl
    | some e =>
      rcases hs : e.state with _ | _ | ⟨o, d, _ | n⟩ <;> simp [hs]
      have := h n (by simp [timeLeft, he, hs])
      omega
  | reservation m =>
    simp only [expire, expireReservation]
    cases hr : s.reservations.get m with
    | none => rfl
    | some r =>
      have := h r.remaining (by simp [timeLeft, hr])
      simp [show ¬ r.remaining ≤ 1 by omega]
  | replyWindow x =>
    simp only [expire, expireReplyWindow]
    cases he : (unitOf s x).engine <;> simp
    rename_i tx n
    have := h n (by simp [timeLeft, he])
    omega
  | parkedHold x =>
    simp only [expire, expireParked]
    rcases hp : (unitOf s x).park with _ | ⟨tx, n | _⟩ <;> simp
    have := h n (by simp [timeLeft, hp])
    omega
  | backoffHold x =>
    simp only [expire, expireBackoff]
    cases he : (unitOf s x).engine <;> simp
    rename_i tx n
    have := h n (by simp [timeLeft, he])
    omega

end Sys2Proof.Machine
end

