-- ==== Sys2Proof/Laws/Words.lean ====
section
/-! SUPPORT. What the words of the views hold: the value of a word of fields (section 10.8) and the lanes of a word of bytes (R157). -/

namespace Sys2Proof.Machine

/-! ## Words of fields -/

@[simp] theorem placed_nil : placed [] = 0 := rfl
@[simp] theorem placed_cons (lo v : Nat) (rest : List (Nat × Nat)) : placed ((lo, v) :: rest) = 2 ^ lo * v + placed rest := rfl

theorem toNat_putField {lo len v : Nat} (hv : v < 2 ^ len) (hw : lo + len ≤ 32) : (putField lo len v).toNat = 2 ^ lo * v := by
  have h : 2 ^ lo * v < 2 ^ 32 :=
    calc 2 ^ lo * v < 2 ^ lo * 2 ^ len := Nat.mul_lt_mul_of_pos_left hv (Nat.two_pow_pos lo)
      _ = 2 ^ (lo + len) := (Nat.pow_add ..).symm
      _ ≤ 2 ^ 32 := Nat.pow_le_pow_right (by decide) hw
  rw [putField, Nat.mod_eq_of_lt hv, Nat.shiftLeft_eq, Nat.mul_comm, BitVec.toNat_ofNat, Nat.mod_eq_of_lt h]

theorem toNat_putFlag {n : Nat} {b : Bool} (hn : n < 32) : (putFlag n b).toNat = 2 ^ n * bit b := by
  have h : bit b = b.toNat := by cases b <;> rfl
  rw [h]
  exact toNat_putField (by cases b <;> decide) hn

/-- A word below a field joins with it by addition. -/
theorem toNat_or_putField {w : Word} {lo len v : Nat} (hl : w.toNat < 2 ^ lo) (hv : v < 2 ^ len) (hw : lo + len ≤ 32) :
    (w ||| putField lo len v).toNat = w.toNat + 2 ^ lo * v := by
  rw [BitVec.toNat_or, toNat_putField hv hw, Nat.or_comm, Nat.add_comm, Nat.two_pow_add_eq_or_of_lt hl]

/-- The value of a word whose fields, each a lowest bit, a length and a value that fits it, ascend. -/
theorem toNat_joinFields (fs : List (Nat × Nat × Nat)) (rising : fs.Pairwise (fun f g => f.1 + f.2.1 ≤ g.1))
    (fit : ∀ f ∈ fs, f.1 + f.2.1 ≤ 32 ∧ f.2.2 < 2 ^ f.2.1) :
    (joinFields (fs.map fun f => putField f.1 f.2.1 f.2.2)).toNat = placed (fs.map fun f => (f.1, f.2.2)) := by
  suffices h : ∀ w : Word, (∀ f ∈ fs, w.toNat < 2 ^ f.1) →
      ((fs.map fun f => putField f.1 f.2.1 f.2.2).foldl (· ||| ·) w).toNat = w.toNat + placed (fs.map fun f => (f.1, f.2.2)) by
    have := h 0 (fun f _ => by simp)
    rwa [show (0 : Word).toNat = 0 from rfl, Nat.zero_add] at this
  induction fs with
  | nil => intro w _; rfl
  | cons f rest ih =>
    intro w hw
    obtain ⟨hf, hv⟩ := fit f (by simp)
    have hj := toNat_or_putField (hw f (by simp)) hv hf
    rw [List.pairwise_cons] at rising
    have hb : w.toNat + 2 ^ f.1 * f.2.2 < 2 ^ (f.1 + f.2.1) := by
      have := hw f (by simp)
      have : 2 ^ f.1 * (f.2.2 + 1) ≤ 2 ^ f.1 * 2 ^ f.2.1 := Nat.mul_le_mul_left _ hv
      rw [Nat.pow_add]
      nlinarith
    have := ih rising.2 (fun g hg => fit g (by simp [hg])) (w ||| putField f.1 f.2.1 f.2.2) (fun g hg => by
      rw [hj]
      exact hb.trans_le (Nat.pow_le_pow_right (by decide) (rising.1 g hg)))
    simp only [List.map_cons, List.foldl_cons, placed_cons] at this ⊢
    rw [this, hj]
    omega

/-! ## Words of bytes -/

theorem lane_byte (b : Byte) {p lane : Nat} (hp : p < 4) (hl : lane < 4) :
    ((b.setWidth 32 <<< (8 * p)) >>> (8 * lane)).setWidth 8 = if p = lane then b else (0 : Byte) := by
  have hb := b.isLt
  interval_cases p <;> interval_cases lane <;>
    (apply BitVec.eq_of_toNat_eq; simp [Nat.shiftLeft_eq, Nat.shiftRight_eq_div_pow]; try omega)

/-- One lane of a word of bytes: the byte that lies on it, and zero where none does. -/
theorem lane_onLanes (d : List Byte) {lane : Nat} (hl : lane < 4) : ∀ a : Nat, d.length ≤ 4 →
    (onLanes a d >>> (8 * lane)).setWidth 8 =
      if h : (lane + 4 - a % 4) % 4 < d.length then d[(lane + 4 - a % 4) % 4] else (0 : Byte) := by
  induction d with
  | nil => intro a _; simp [onLanes]
  | cons b bs ih =>
    intro a hd
    simp only [List.length_cons] at hd
    rw [onLanes, BitVec.ushiftRight_or_distrib, BitVec.setWidth_or, lane_byte b (Nat.mod_lt _ (by decide)) hl, ih (a + 1) (by omega)]
    rcases eq_or_ne (a % 4) lane with h | h
    · have h0 : (lane + 4 - a % 4) % 4 = 0 := by omega
      rw [if_pos h, dif_neg (by omega), dif_pos (by simp [h0])]
      simp [h0]
    · have h1 : (lane + 4 - a % 4) % 4 = (lane + 4 - (a + 1) % 4) % 4 + 1 := by omega
      simp [h, h1]

/-- `onLanes` carries the bytes of one access on their lanes and zero elsewhere (R157). -/
theorem onLanes_onLanes (a : Nat) (d : List Byte) (hd : d.length ≤ 4) : OnLanes a d (onLanes a d) := by
  constructor
  · intro j h
    rw [lane_onLanes d (Nat.mod_lt _ (by decide)) a hd, dif_pos (by omega)]
    congr 1; omega
  · intro lane hl hn
    rw [lane_onLanes d hl a hd, dif_neg]
    intro h
    exact hn _ h (by omega)

end Sys2Proof.Machine
end

