-- ==== Sys2Proof/Tests/Slice0.lean ====
section
/-! SUPPORT. Our own tests: the checks of WellFormed, one-step tests with the results the manual gives, and for every obligation with
hypotheses a state and operands that meet them together. -/

namespace Sys2Proof.Tests

open Sys2Proof.Machine

/-! ## Helpers -/

/-- The state after one command. -/
def after (c : Instr) (s : State) : State :=
  match exec c s with
  | .next t => t
  | .fault _ => s
  | .refused _ => s

def rd (m : Master) (addr : Nat) (code : BitVec 2) : Access :=
  { master := m, kind := .read, addr := BitVec.ofNat 22 addr, widthCode := code, lanes := 0 }

def wr (m : Master) (addr : Nat) (code : BitVec 2) (lanes : Word) : Access :=
  { master := m, kind := .write, addr := BitVec.ofNat 22 addr, widthCode := code, lanes := lanes }

/-- A 4-byte READ entry of branch A at host address 0x1000 + 4k. -/
def entry (k : Slot) (m : Master) (n : Node) (st : EntryState) : Entry :=
  { slot := k, master := m, kind := .read, hostAddr := BitVec.ofNat 22 (0x1000 + 4 * k.val), width := .w4, writeData := [],
    branch := .a, node := n, regAddr := 0, fetchWidth := .w4, wordFetch := false, errorMode := .report, postedAhead := 0,
    state := st }

/-- A one-byte posted write of master 0. -/
def posted (n : Node) : PostedRecord :=
  { master := 0, hostAddr := 0x2000, node := n, regAddr := 0x10, width := .w1, data := [0xAB], holdsUsed := 0, resendsUsed := 0 }

/-- The transaction of a read by slot `k`. -/
def readTxn (k : Slot) (n : Node) : Txn :=
  { source := .slot k, node := n, op := .read, regAddr := 0, width := .w4, data := [], parity := false, resendsUsed := 0, holdsUsed := 0 }

/-- The transaction of `posted n`, sent with parity 1. -/
def writeTxn (n : Node) : Txn :=
  { source := .posted, node := n, op := .write, regAddr := 0x10, width := .w1, data := [0xAB], parity := true, resendsUsed := 0, holdsUsed := 0 }

/-- An ACTIVE branch with nothing to do. -/
def active : BranchUnit := { branchReset with ctrl := .active, engine := .idle }

/-- After reset, with the column of branch A put to `u`. -/
def withA (u : BranchUnit) : State := { State.reset with branches := { State.reset.branches with a := u } }

/-- The rate after reset. -/
def rate : LineRate := { kbps := 250, divisor := 25 }

/-- A branch with everything in progress: a posted head parked, a read awaited, a record queued behind, a probe asked for. -/
def busyUnit : BranchUnit :=
  { active with
    ctrl := .draining, queue := [posted 2, posted 3], headInFlight := true, engine := .await (readTxn 4 5) 500,
    park := some { tx := writeTxn 2, delay := .waiting 100 }, receiver := .receiving rate, probeSet := [9] }

/-- A part with work in every state, and a claim timer and a reservation with one tick left. -/
def busy : State :=
  { withA busyUnit with
    entries := [{ entry 4 1 5 (.issued false) with postedAhead := 0 }, { entry 1 2 7 .pending with postedAhead := 2 },
                entry 0 0 5 (.ready .ok (some [1, 2, 3, 4]) (some 1))]
    reservations := ⟨none, none, none, some { slot := 7, remaining := 1 }⟩
    records := [{ seq := 41, body := .nodeOffline .c 6 }]
    recordCounter := 42
    pending := [.sendComplete .b] }

/-- Twelve entries: slot 1 of master 2 ISSUED, slot 3 of master 2 READY, slot 7 of master 2 PENDING, the rest PENDING of masters 0, 1
and 3; masters 2 and 0 wait (section 1.6, Example). -/
def crowd : State :=
  { withA { active with queue := [posted 2] } with
    entries :=
      [entry 0 0 5 .pending, entry 1 2 5 (.issued false), entry 2 0 5 .pending,
       entry 3 2 5 (.ready .ok (some [0, 0, 0, 0]) (some 9)), entry 4 0 5 .pending, entry 5 1 5 .pending, entry 6 1 5 .pending,
       entry 7 2 6 .pending, entry 8 1 5 .pending, entry 9 3 5 .pending, entry 10 3 5 .pending, entry 11 3 5 .pending]
    waiting := [2, 0] }

/-- The apertures of the example of section 3.3 on branches A, B and C. -/
def mapped : State :=
  { State.reset with
    apertures :=
      ((State.reset.apertures.set 0
        { enable := true, cls := .posted, readOk := true, writeOk := true, errorMode := .absorb, wordFetch := true,
          basePage := 0x104, sizeCode := 2, regBase := 0x2123, node := 7, branch := .b }).set 1
        { enable := true, cls := .deferred, readOk := true, writeOk := true, errorMode := .report, wordFetch := false,
          basePage := 0x100, sizeCode := 8, regBase := 0, node := 3, branch := .a }).set 2
        { enable := true, cls := .posted, readOk := false, writeOk := true, errorMode := .report, wordFetch := false,
          basePage := 0x200, sizeCode := 0, regBase := 0x0100, node := 0, branch := .c }
    branches := ⟨active, active, active, branchReset⟩ }

theorem forall_branch {P : Branch → Prop} (ha : P .a) (hb : P .b) (hc : P .c) (hd : P .d) : ∀ x, P x
  | .a => ha
  | .b => hb
  | .c => hc
  | .d => hd

/-! ## WellFormed: one ill-formed term for each check -/

theorem test_wf_hostAccess : (Instr.hostAccess (wr 0 0x008 2 4)).wf = false := by decide
theorem test_wf_registerWrite : (Instr.registerWrite 0 0x014 2 0).wf = false := by decide
theorem test_wf_quiescedClear : (Instr.quiescedClear 0 0).wf = false := by decide
theorem test_wf_replyFrame : (Instr.replyFrame .a { bytes := [], endMark := true, rate := { kbps := 0, divisor := 25 } }).wf = false := by
  decide
theorem test_wf_unknownBranchCommand : (Instr.unknownBranchCommand 0 .a 3).wf = false := by decide
theorem test_wf_microsecondTick : (Instr.microsecondTick [.claim 3, .claim 3]).wf = false := by decide

/-! ## Words, frames and the window -/

/-- The published check value of this cyclic check over the digits 1 to 9. -/
theorem test_check : checkOf [0x31, 0x32, 0x33, 0x34, 0x35, 0x36, 0x37, 0x38, 0x39] = 0x29B1 := by decide +kernel

/-- Section 10.8, Command frame: node 5, operation 10, parity 1. -/
theorem test_commandBody : commandBody (writeTxn 5) = [0b00101101, 0x00, 0x10, 0x01, 0xAB] := by decide

/-- Section 10.8, Reply frame: node 5, parity echo 1, status 100, reason 9. -/
theorem test_replyBody : replyBody 5 true (.deny 9) = [0b00101100, 0b10001001] := by decide

/-- R157: two bytes at an address that ends in 2 travel on lanes 2 and 3. -/
theorem test_lanes : onLanes 0x402 [0x11, 0x22] = 0x22110000 := by decide

/-- Section 10.8, Register window map: its last register, and the offset above it. -/
theorem test_regAt : regAt 0xB7C = some (.nodeWord .d 31) ∧ regAt 0xB80 = none := by decide

/-- No row of the table has bits. -/
theorem test_decodeTableWord : decodeTableWord 32 0x16140 = none := rfl

/-! ## One step of each command -/

theorem test_step_idle : step State.reset = .next State.reset := rfl

/-- R170. -/
theorem test_hostAccess_identification :
    (after (.hostAccess (rd 3 0 2)) State.reset).response = some { master := 3, code := .complete, lanes := some 0x00016140 } := by decide

/-- Section 3.3, Example: the word-fetch read at 0x010406. -/
theorem test_hostAccess_wordFetch :
    (after (.hostAccess (rd 0 0x010406 1)) mapped).entries =
      [{ slot := 0, master := 0, kind := .read, hostAddr := 0x010406, width := .w2, writeData := [], branch := .b, node := 7,
         regAddr := 0x2004, fetchWidth := .w4, wordFetch := true, errorMode := .absorb, postedAhead := 0, state := .pending }] := by
  decide

/-- Section 3.3, Example: the broadcast at 0x020010 is node register 0x0110. -/
theorem test_hostAccess_broadcast :
    ((unitOf (after (.hostAccess (wr 2 0x020010 1 0x1234)) mapped) .c).queue.map fun r => (r.regAddr, r.data)) =
      [(0x0110, [0x34, 0x12])] := by decide

/-- R163: a divisor code of 63 is stored as 50. -/
theorem test_registerWrite : (after (.registerWrite 0 0x008 2 0x3F) State.reset).divisor = 50 := by decide

/-- R36: a full new timer for a READY entry without one. -/
theorem test_claimWindowWrite :
    (after (.claimWindowWrite 0 125) { State.reset with claimWindow := 0, entries := [entry 6 3 12 (.ready .ok none none)] }).entries =
      [entry 6 3 12 (.ready .ok none (some 2000))] := by decide

/-- R21: a window of 0 empties the waiting list. -/
theorem test_reservationWindowWrite : (after (.reservationWindowWrite 0 0) crowd).waiting = [] := by decide

/-- R154. -/
theorem test_attentionEnablesWrite : attn (after (.attentionEnablesWrite 0 1) busy) = true := by decide

/-- Section 1.6, Example: slot 3 goes to master 0, slot 7 becomes open, slot 1 is marked. -/
theorem test_abandon_slots :
    (after (.abandon 0 2) crowd).reservations.m0 = some { slot := 3, remaining := 256 } ∧
      slotOpen (after (.abandon 0 2) crowd) 7 = true ∧ (after (.abandon 0 2) crowd).waiting = [] := by decide

theorem test_abandon_record :
    (after (.abandon 0 2) crowd).records = [{ seq := 0, body := .masterAbandoned 2 2 1 }] := by decide

/-- R130. -/
theorem test_probe : (unitOf (after (.probe 1 .a 4) busy) .a).probeSet = [4, 9] := by decide

/-- R131: the parity of a revived node is UNSURE. -/
theorem test_revive : (nodeOf (unitOf (after (.revive 1 .a 31) (withA active)) .a) 31).parity = .unsure := by decide

/-- R130, R133: PROBE on a HELD branch is refused. -/
theorem test_commandRefusedClear :
    (after (.probe 1 .b 4) State.reset).commandRefused = true ∧
      (after (.commandRefusedClear 0) (after (.probe 1 .b 4) State.reset)).commandRefused = false := by decide

/-- R137: a drained branch completes its drain at once. -/
theorem test_quiesce :
    (unitOf (after (.quiesce 0 .a) (withA active)) .a).ctrl = .quiesced ∧
      (after (.quiesce 0 .a) (withA active)).quiescedFlags.a = true := by decide

theorem test_resume : (unitOf (after (.resume 0 .a) busy) .a).ctrl = .active := by decide

/-- Section 4.6, Example: the flush of a queue with its head parked. -/
theorem test_hold_records : (after (.hold 0 .a) busy).records.map ExcRecord.body = [.nodeOffline .c 6, .postedFlushed .a 2] := by decide

theorem test_hold_entries :
    (after (.hold 0 .a) busy).entries.map (fun e => (e.slot, e.state)) =
      [(4, .ready .branchReset none (some 32768)), (1, .ready .branchReset none (some 32768)),
       (0, .ready .ok (some [1, 2, 3, 4]) (some 1))] := by decide

theorem test_release : (unitOf (after (.release 2 .d) State.reset) .d).ctrl = .quiesced := by decide

theorem test_pop : (after (.pop 0) busy).records = [] ∧ (after (.pop 0) busy).recordCounter = 42 := by decide

theorem test_overrunClear : (after (.overrunClear 0) { State.reset with overrun := true }).overrun = false := by decide

theorem test_quiescedClear :
    (after (.quiescedClear 0 0b0100) { State.reset with quiescedFlags := ⟨true, true, true, true⟩ }).quiescedFlags =
      ⟨true, true, false, true⟩ := by decide

/-- R161: the divisor and the records are kept, the table is not. -/
theorem test_chipReset :
    (after (.chipReset 0) { busy with divisor := 33 }).divisor = 33 ∧ (after (.chipReset 0) busy).records = busy.records ∧
      (after (.chipReset 0) busy).entries = [] := by decide

theorem test_chipResetEnd : (after .chipResetEnd (after (.chipReset 0) busy)).phase = .run := by decide

theorem test_pinReset : (after .pinReset busy).records = [] ∧ (after .pinReset busy).recordCounter = 0 := by decide

theorem test_rstNRelease_initialisationEnd :
    (after .rstNRelease (after .pinReset busy)).phase = .initialising ∧
      (after .initialisationEnd (after .rstNRelease (after .pinReset busy))).phase = .run := by decide

/-- R38. -/
theorem test_claimTimerExpiry :
    (after (.claimTimerExpiry 0) busy).records.map ExcRecord.body = [.nodeOffline .c 6, .claimExpired 0 0 0x1000 .read .ok] := by decide

/-- R38, R148: the record of an expired denial carries no node reason code. -/
theorem test_claimTimerExpiry_denied :
    (after (.claimTimerExpiry 6) { State.reset with entries := [entry 6 3 12 (.ready (.nodeDenied 9) none (some 1))] }).records.map
        ExcRecord.body = [.claimExpired 3 6 0x1018 .read .nodeDenied] := by decide

/-- R20. -/
theorem test_reservationExpiry : slotOpen (after (.reservationExpiry 3) busy) 7 = true := by decide

/-- R88, R89: with the probe-deferral count at 8 the probe goes before the posted head. -/
theorem test_choiceEvent_probe :
    (unitOf (after (.choiceEvent .a) (withA { active with queue := [posted 2], probeSet := [9], probeDeferral := 8 })) .a).engine =
      .transmit (probeTxn .probeSet 9) rate := by decide

/-- R92: a write to a node whose parity is UNSURE is left as it was and a resync probe goes. -/
theorem test_choiceEvent_resync :
    let t := after (.choiceEvent .a) (withA (onNode 2 (fun r => { r with parity := .unsure }) { active with queue := [posted 2] }))
    (unitOf t .a).headInFlight = false ∧ (unitOf t .a).engine = .transmit (probeTxn .resync 2) rate := by decide

/-- R104: the reply window of 50 units is 500 µs. -/
theorem test_sendComplete :
    (unitOf (after (.sendComplete .a) (withA { active with engine := .transmit (readTxn 4 5) rate })) .a).engine =
      .await (readTxn 4 5) 500 := by decide

/-- R106, R32: the read data of a DATA reply. -/
theorem test_replyFrame_data :
    ((after (.replyFrame .a { bytes := replyBytes 5 false (.data [1, 2, 3, 4]), endMark := true, rate := rate }) busy).entries.map
        Entry.state).head? = some (.ready .ok (some [1, 2, 3, 4]) (some 32768)) := by decide +kernel

/-- R105, R110: a reply with the wrong parity echo is handled as silence, so the frame goes again. -/
theorem test_replyFrame_echo :
    (unitOf (after (.replyFrame .a { bytes := replyBytes 5 true (.data [1, 2, 3, 4]), endMark := true, rate := rate }) busy) .a).engine =
      .transmit { readTxn 4 5 with resendsUsed := 1 } rate := by decide +kernel

/-- Section 9.6, Example: with 15 records the drop is recorded and the turn is lost. -/
theorem test_replyWindowExpiry_overrun :
    let old : ExcRecord := { seq := 40, body := .nodeOffline .d 1 }
    let s := { withA { active with
                  queue := [posted 6], headInFlight := true, engine := .await { writeTxn 6 with resendsUsed := 2 } 1
                  settings := { settingsReset with offlineThreshold := 1 } } with
               records := List.replicate 15 old, recordCounter := 55 }
    let t := after (.replyWindowExpiry .a) s
    (t.records.drop 15 = [{ seq := 55, body := .postedDropped .a 6 0 0x2000 .noReply }]) ∧ t.overrun = true ∧
      t.recordCounter = 56 ∧ (nodeOf (unitOf t .a) 6).state = .offline := by decide

theorem test_replyWindowExpiry_resend :
    (unitOf (after (.replyWindowExpiry .a) (withA { active with engine := .await (readTxn 4 5) 1 })) .a).engine =
      .transmit { readTxn 4 5 with resendsUsed := 1 } rate := by decide

theorem test_parkedHoldDelayExpiry :
    ((unitOf (after (.parkedHoldDelayExpiry .a) (withA { active with park := some { tx := writeTxn 2, delay := .waiting 1 } })) .a).park.map
      Parked.delay) = some .due := by decide

theorem test_backoffHoldDelayExpiry :
    (unitOf (after (.backoffHoldDelayExpiry .a) (withA { active with engine := .backoff (readTxn 4 5) 1 })) .a).engine =
      .transmit (readTxn 4 5) rate := by decide

theorem test_drainComplete :
    (unitOf (after (.drainComplete .a) (withA { active with ctrl := .draining })) .a).ctrl = .quiesced := by decide

/-- R169: a start mark outside AWAIT. -/
theorem test_startMark : (unitOf (after (.startMark .a) (withA active)) .a).receiver = .ignoring := by decide

theorem test_unknownBranchCommand : (after (.unknownBranchCommand 0 .a 15) busy).commandRefused = true := by decide

/-- R159: each running timer falls by one, and one that reaches zero expires in the tick's own event. -/
theorem test_microsecondTick :
    (unitOf (after (.microsecondTick []) busy) .a).engine = .await (readTxn 4 5) 499 ∧
      (after (.microsecondTick []) busy).entries.map Entry.slot = [4, 1] ∧ slotOpen (after (.microsecondTick []) busy) 7 = true := by
  decide

/-- Two expiries of one tick, in the order the operand gives: slot 3's freeing serves master 2, then master 1's reservation ends. -/
theorem test_microsecondTick_order :
    let s := { State.reset with
      entries := [entry 3 0 5 (.ready .ok none (some 1))]
      reservations := ⟨none, some { slot := 8, remaining := 1 }, none, none⟩, waiting := [2, 3] }
    let held := fun (t : State) => ((t.reservations.get 2).map Reservation.slot, (t.reservations.get 3).map Reservation.slot)
    held (after (.microsecondTick [.claim 3, .reservation 1]) s) = (some 3, some 8) ∧
      held (after (.microsecondTick [.reservation 1, .claim 3]) s) = (some 8, some 3) := by decide

/-! ## Witnesses: the hypotheses of each obligation, met together -/

/-- Invariants of a state in which no reservation and no waiting master stands. -/
theorem tableOk_of_quiet {s : State} (hn : (s.entries.map Entry.slot).Nodup) (hr : ∀ m, s.reservations.get m = none) (hw : s.waiting = []) :
    TableOk s where
  slots_nodup := hn
  reserved_free m r h := by rw [hr m] at h; cases h
  reserved_once m n r q h := by rw [hr m] at h; cases h
  waiting_nodup := by simp [hw]
  waiting_apart m h := hr m
  waiting_window h := absurd hw h
  waiting_closed h := absurd hw h

theorem reset_tableOk : TableOk State.reset := tableOk_of_quiet (by decide) (by decide) rfl

theorem busy_reservation {m : Master} {r : Reservation} (h : busy.reservations.get m = some r) :
    m = 3 ∧ r = { slot := 7, remaining := 1 } := by
  match m with
  | 0 => cases h
  | 1 => cases h
  | 2 => cases h
  | 3 => cases h; exact ⟨rfl, rfl⟩

theorem busy_tableOk : TableOk busy where
  slots_nodup := by decide
  reserved_free m r h := by obtain ⟨rfl, rfl⟩ := busy_reservation h; decide
  reserved_once m n r q h k _ := by rw [(busy_reservation h).1, (busy_reservation k).1]
  waiting_nodup := by decide
  waiting_apart m h := by cases h
  waiting_window h := absurd rfl h
  waiting_closed h := absurd rfl h

theorem crowd_unreserved : ∀ m, crowd.reservations.get m = none := by decide

theorem mapped_unreserved : ∀ m, mapped.reservations.get m = none := by decide

theorem crowd_tableOk : TableOk crowd where
  slots_nodup := by decide
  reserved_free m r h := by rw [crowd_unreserved] at h; cases h
  reserved_once m n r q h := by rw [crowd_unreserved] at h; cases h
  waiting_nodup := by decide
  waiting_apart m _ := crowd_unreserved m
  waiting_window _ := by decide
  waiting_closed _ := by decide

theorem busy_columnsOk : ColumnsOk busy := by
  refine forall_branch ?_ ?_ ?_ ?_ <;> exact ⟨by decide, by decide, by decide, by decide, by decide⟩

theorem busy_probeSetsOk : ProbeSetsOk busy := forall_branch (by decide) (by decide) (by decide) (by decide)

theorem busy_countsInRange : CountsInRange busy := by
  refine forall_branch ?_ ?_ ?_ ?_ <;> exact ⟨by decide, by decide, by decide⟩

theorem reset_countsInRange : CountsInRange State.reset := by
  refine forall_branch ?_ ?_ ?_ ?_ <;> exact ⟨by decide, by decide, by decide⟩

theorem busy_settingsInRange : SettingsInRange busy :=
  ⟨by decide, by decide, by decide, by decide, by decide, by decide,
    forall_branch (by unfold settingsInRange; decide) (by unfold settingsInRange; decide) (by unfold settingsInRange; decide)
      (by unfold settingsInRange; decide)⟩

/-! ### The queue, the port and the window -/

theorem test_witness_StepTakesTheFrontCommand : busy.pending = [.sendComplete .b] ∧ State.reset.pending = [] := ⟨rfl, rfl⟩

theorem test_witness_AccessInResetIsRetried :
    portOf (.pop 3) = some (3, .write) ∧ portOf (.hostAccess (rd 0 0 2)) = some (0, .read) ∧ (after .pinReset busy).phase ≠ .run := by
  decide

theorem test_witness_WidthCodeStep :
    State.reset.phase = .run ∧ (rd 0 0 3).widthCode = 0b11#2 ∧ widthOf (rd 0 0x3FFFFF 1).widthCode = some .w2 ∧
      (rd 0 0x3FFFFF 1).addr.toNat % Width.w2.bytes ≠ 0 := by decide

theorem test_witness_IdentificationRegister :
    (rd 0 0 2).addr = 0 ∧ State.reset.phase = .run ∧ (rd 0 0 2).kind = .read ∧ (rd 0 0 2).widthCode = 0b10#2 ∧
      (after .pinReset busy).phase ≠ .run ∧ (wr 0 0 2 7).addr = 0 ∧ (wr 0 0 2 7).kind = .write ∧ (wr 0 0 2 7).widthCode ≠ 0b11#2 := by
  decide

theorem test_witness_RegisterAccess :
    alignedWidth (rd 0 0xB7C 2) = some .w4 ∧ regAt (rd 0 0xB7C 2).addr.toNat = some (.nodeWord .d 31) ∧
      alignedWidth (rd 0 0xFFF 0) = some .w1 ∧ (rd 0 0xFFF 0).addr.toNat < 4096 ∧ regAt (rd 0 0xFFF 0).addr.toNat = none ∧
      alignedWidth (wr 0 0x580 2 0) = some .w4 ∧ regAt (wr 0 0x580 2 0).addr.toNat = some .waitingList ∧
      readOnly .waitingList = true := by decide +kernel

theorem test_witness_SettingsWrittenBackAreUnchanged :
    busy.phase = .run ∧ SettingsInRange busy ∧ TableOk busy ∧ regAt 0x008 = some .divisor ∧ regAt 0x010 = some .quotas ∧
      regAt 0x014 = some .claimWindow ∧ regAt 0x018 = some .resWindow ∧ regAt 0x04C = some .attentionEnables ∧
      regAt 0x178 = some (.apertureWord0 15) ∧ regAt 0x17C = some (.apertureWord1 15) ∧ regAt 0x2C8 = some (.branchRates .d) ∧
      regAt 0x2CC = some (.branchLink .d) :=
  ⟨rfl, busy_settingsInRange, busy_tableOk, by decide⟩

/-- A head, a transaction in each of the three states, a park slot waiting and due at the ends of their ranges, and each empty. -/
theorem test_witness_BranchViewsShowTheBranch :
    ColumnsOk busy ∧ CountsInRange busy ∧
      (unitOf busy .a).queue = posted 2 :: [posted 3] ∧ (posted 2).resendsUsed ≤ 7 ∧ (posted 2).data.length ≤ 4 ∧
      (unitOf busy .b).queue = [] ∧ (unitOf busy .b).engine = .off ∧ (unitOf (withA active) .a).engine = .idle ∧
      Carries (unitOf (withA { active with engine := .transmit (writeTxn 0) rate }) .a) 2 (writeTxn 0) 0 ∧
      Carries (unitOf (withA { active with engine := .await { readTxn 4 5 with resendsUsed := 7, holdsUsed := 1023 } 2550 }) .a) 3
        { readTxn 4 5 with resendsUsed := 7, holdsUsed := 1023 } 2550 ∧
      Carries (unitOf (withA { active with engine := .backoff (readTxn 4 5) 1 }) .a) 4 (readTxn 4 5) 1 ∧
      (unitOf busy .b).park = none ∧ (unitOf busy .a).park = some { tx := writeTxn 2, delay := .waiting 100 } ∧
      (unitOf (withA { active with park := some { tx := writeTxn 2, delay := .due } }) .a).park =
        some { tx := writeTxn 2, delay := .due } :=
  ⟨busy_columnsOk, busy_countsInRange, by decide, by decide, by decide, by decide, by decide, by decide, .inl ⟨rate, rfl, rfl, rfl⟩,
    .inr (.inl ⟨rfl, rfl⟩), .inr (.inr ⟨rfl, rfl⟩), by decide, by decide, by decide⟩

/-- Windows at both ends of their ranges: 0, and the largest (sections 1.5 and 2.5). -/
theorem test_witness_WindowWrites :
    busy.phase = .run ∧ busy.claimWindow ≠ 0 ∧ ({ busy with claimWindow := 0 } : State).claimWindow = 0 ∧
      ((0x00F : Word).extractLsb' 0 12).toNat = 15 ∧ ((0xFFF : Word).extractLsb' 0 12).toNat = 4095 ∧
      ((0xFF : Word).extractLsb' 0 8).toNat = 255 ∧ (0x100 : Word).extractLsb' 0 8 = 0 := by decide

/-- An entry of each state in its place, FREE slot 2, no waiting master and four of them, no reservation and the longest. -/
theorem test_witness_TableViewsShowTheTable :
    TableOk busy ∧
      busy.entries = [] ++ { entry 4 1 5 (.issued false) with postedAhead := 0 } ::
        [{ entry 1 2 7 .pending with postedAhead := 2 }, entry 0 0 5 (.ready .ok (some [1, 2, 3, 4]) (some 1))] ∧
      busy.entries = [{ entry 4 1 5 (.issued false) with postedAhead := 0 }, { entry 1 2 7 .pending with postedAhead := 2 }] ++
        entry 0 0 5 (.ready .ok (some [1, 2, 3, 4]) (some 1)) :: [] ∧
      isReady (entry 1 2 7 .pending) = false ∧ (∀ e ∈ busy.entries, e.slot ≠ 2) ∧
      TableOk crowd ∧ crowd.waiting = [2, 0] ∧ busy.waiting = [] ∧ busy.reservations.get 0 = none ∧
      ({ State.reset with reservations := ⟨some { slot := 11, remaining := 1020 }, none, none, none⟩ } : State).reservations.get 0 =
        some { slot := 11, remaining := 1020 } :=
  ⟨busy_tableOk, rfl, rfl, rfl, by decide, crowd_tableOk, rfl, rfl, rfl, rfl⟩

theorem test_witness_CommandRowsAreTheirRegisterWrites : writeOf (.quiesce 1 .d) = some (1, 0x2C0, 1) := rfl

/-! ### Repeats, the decode and the routes -/

theorem test_witness_RepeatOfUnfinishedEntryIsRetried :
    (ReachesSearch (rd 2 0x1004 2) .w4 busy ∧ OldestMatch (rd 2 0x1004 2) .w4 busy { entry 1 2 7 .pending with postedAhead := 2 }) ∧
    ReachesSearch (rd 1 0x1010 2) .w4 busy ∧ OldestMatch (rd 1 0x1010 2) .w4 busy (entry 4 1 5 (.issued false)) := by
  refine ⟨⟨by unfold ReachesSearch; decide, by unfold Matches; decide,
      [{ entry 4 1 5 (.issued false) with postedAhead := 0 }], [entry 0 0 5 (.ready .ok (some [1, 2, 3, 4]) (some 1))], rfl,
      by unfold Matches; decide⟩,
    by unfold ReachesSearch; decide, by unfold Matches; decide, [], _, rfl, by simp⟩

theorem test_witness_RepeatOfReadyEntryClaimsIt :
    ReachesSearch (rd 0 0x1000 2) .w4 busy ∧
      OldestMatch (rd 0 0x1000 2) .w4 busy (entry 0 0 5 (.ready .ok (some [1, 2, 3, 4]) (some 1))) := by
  refine ⟨by unfold ReachesSearch; decide, by unfold Matches; decide,
    [{ entry 4 1 5 (.issued false) with postedAhead := 0 }, { entry 1 2 7 .pending with postedAhead := 2 }], [], rfl,
    by unfold Matches; decide⟩

/-- `mapped` with aperture 2 readable. -/
def mappedRead : State := { mapped with apertures := mapped.apertures.set 2 { mapped.apertures[2] with readOk := true } }

/-- `mapped` with the queue of branch B full. -/
def mappedFull : State :=
  { mapped with branches := { mapped.branches with b := { active with queue := List.replicate 8 (posted 7) } } }

/-- `mapped` with node 7 of branch B OFFLINE. -/
def mappedOffline : State :=
  { mapped with branches := { mapped.branches with b := onNode 7 (fun r => { r with state := .offline }) active } }

theorem test_witness_DecodeFaults :
    (ReachesDecode (rd 0 0x3FFFFC 2) .w4 mapped ∧ ∀ n : Fin 16, ¬ ContainsAddr mapped.apertures[n.val] (rd 0 0x3FFFFC 2).addr.toNat) ∧
    (ReachesDecode (rd 2 0x0200FF 0) .w1 mapped ∧ LowestContaining mapped (rd 2 0x0200FF 0).addr.toNat 2 ∧
      ¬ Permits mapped.apertures[2] .read) ∧
    ReachesDecode (rd 2 0x020000 0) .w1 mappedRead ∧ LowestContaining mappedRead (rd 2 0x020000 0).addr.toNat 2 ∧
      Permits mappedRead.apertures[2] .read ∧ mappedRead.apertures[2].node = 0 := by
  refine ⟨⟨?_, ?_⟩, ⟨?_, ?_, ?_⟩, ?_, ?_, ?_, ?_⟩ <;>
    first
    | decide
    | (unfold ReachesDecode ReachesSearch Matches; decide)
    | (unfold ContainsAddr; decide)
    | (unfold LowestContaining ContainsAddr; decide)
    | (unfold Permits; decide)

/-- Branch B is ACTIVE in `mappedOffline`; `mapped` with another state of the branch gives the other cases. -/
theorem test_witness_BranchAndNodeStateAtAdmission :
    (∀ s, s = mapped ∨ s = mappedOffline ∨ s = { mapped with branches := { mapped.branches with b := branchReset } } ∨
        s = { mapped with branches := { mapped.branches with b := { active with ctrl := .quiesced } } } →
      ReachesBranch (rd 0 0x010400 0) .w1 0 s ∧ ReachesBranch (wr 0 0x0107FF 0 0) .w1 0 s) ∧
    IsPosted (wr 0 0x0107FF 0 0) mapped.apertures[0] ∧ ¬ IsPosted (rd 0 0x010400 0) mapped.apertures[0] ∧
    (unitOf mappedOffline .b).ctrl = .active ∧ nodeIsOffline (unitOf mappedOffline .b) 7 = true := by
  refine ⟨?_, by unfold IsPosted; decide, by unfold IsPosted; decide, by decide, by decide⟩
  rintro s (rfl | rfl | rfl | rfl) <;> constructor <;>
    · unfold ReachesBranch ReachesDecode ReachesSearch LowestContaining ContainsAddr Permits Matches
      decide

theorem test_witness_PostedRoute :
    (ReachesRoute (wr 0 0x0107FF 0 0) .w1 0 mapped ∧ (unitOf mapped .b).queue.length < 8) ∧
    (ReachesRoute (wr 0 0x0107FF 0 0) .w1 0 mappedFull ∧ (unitOf mappedFull .b).queue.length = 8) ∧
    IsPosted (wr 0 0x0107FF 0 0) mapped.apertures[0] := by
  refine ⟨⟨?_, by decide⟩, ⟨?_, by decide⟩, by unfold IsPosted; decide⟩ <;>
    · unfold ReachesRoute ReachesBranch ReachesDecode ReachesSearch LowestContaining ContainsAddr Permits Matches
      decide

/-- The five ways of the deferred route, all by the read of 0x01FFFF through aperture 1. -/
theorem test_witness_DeferredRoute :
    (∀ s, s = mapped ∨ s = { mapped with quotas := ⟨0, 4, 4, 4⟩ } ∨
        s = { mapped with reservations := ⟨some { slot := 11, remaining := 4 }, none, none, none⟩ } ∨
        s = { mapped with entries := crowd.entries } ∨ s = { mapped with entries := crowd.entries, quotas := ⟨3, 4, 4, 4⟩ } →
      ReachesRoute (rd 0 0x01FFFF 0) .w1 1 s) ∧
    ¬ IsPosted (rd 0 0x01FFFF 0) mapped.apertures[1] ∧
    crowd.entries.countP (fun e => e.master = 0) = 3 ∧ (∀ k, OpenSlot mapped k) ∧ ∀ k, ¬ OpenSlot { mapped with entries := crowd.entries } k := by
  refine ⟨?_, by unfold IsPosted; decide, by decide, fun k => ⟨by simp [mapped, State.reset], ?_⟩, fun k hk => ?_⟩
  · rintro s (rfl | rfl | rfl | rfl | rfl) <;>
      · unfold ReachesRoute ReachesBranch ReachesDecode ReachesSearch LowestContaining ContainsAddr Permits Matches
        decide
  · intro m r h
    rw [mapped_unreserved] at h
    cases h
  · have h : ∀ k : Slot, ∃ e ∈ crowd.entries, e.slot = k := by decide
    obtain ⟨e, he, hs⟩ := h k
    exact hk.1 e he hs

/-! ### Records, flags and the Request Table -/

theorem test_witness_PopAndOffer :
    busy.phase = .run ∧ busy.records.length < 16 ∧ State.reset.records = [] ∧
      ({ busy with records := List.replicate 16 { seq := 0, body := .nodeOffline .a 1 } } : State).records.length = 16 := by decide

theorem test_witness_StickyFlagsStay :
    (Instr.overrunClear 0).wf = true ∧
      exec (.overrunClear 0) { State.reset with overrun := true } = .next (after (.overrunClear 0) { State.reset with overrun := true }) ∧
      (after (.overrunClear 0) { State.reset with overrun := true }).overrun = false := ⟨by decide, rfl, by decide⟩

theorem test_witness_AbandonReleasesAMaster : crowd.phase = .run ∧ TableOk crowd := ⟨rfl, crowd_tableOk⟩

/-- Claim timer 0 and reservation 3 have one tick left; slot 4 and master 0 have no timer, and `crowd`'s claim timer 3 has nine. -/
theorem test_witness_TableExpiries :
    TableOk busy ∧ entry 0 0 5 (.ready .ok (some [1, 2, 3, 4]) (some 1)) ∈ busy.entries ∧
      busy.reservations.get 3 = some { slot := 7, remaining := 1 } ∧ ¬ ReachesZero busy (.reservation 0) ∧
      ¬ ReachesZero busy (.claim 4) ∧ TableOk crowd ∧ ¬ ReachesZero crowd (.claim 3) := by
  refine ⟨busy_tableOk, by decide, by decide, ?_, ?_, crowd_tableOk, ?_⟩
  · rintro ⟨r, h, _⟩; cases h
  · rw [reachesZero_iff busy_tableOk.slots_nodup]; rintro ⟨n, h, _⟩; cases h
  · rw [reachesZero_iff crowd_tableOk.slots_nodup]; rintro ⟨n, h, hn⟩; cases h; omega

/-- No record; a head record whose counts stand at the top of their range, in a full queue. -/
theorem test_witness_RecordAndAttentionWords :
    State.reset.records = [] ∧ RecordCountsInRange (.postedFlushed .d 8) ∧ RecordCountsInRange (.masterAbandoned 3 12 12) ∧
      (let s := { busy with records := List.replicate 16 { seq := 255, body := .masterAbandoned 3 12 12 } }
       s.records = { seq := 255, body := .masterAbandoned 3 12 12 } :: List.replicate 15 { seq := 255, body := .masterAbandoned 3 12 12 } ∧
         s.records.length ≤ 16) := by
  refine ⟨rfl, ?_, ?_, rfl, by decide⟩ <;> simp [RecordCountsInRange]

/-! ### Invariants: one state with work everywhere meets them all, and it steps -/

theorem test_witness_Invariants_table :
    RecordsDense busy ∧ TableOk busy ∧ RequestsDistinct busy ∧ PendingNodesAnswer busy ∧ PostedAheadBounded busy :=
  ⟨by unfold RecordsDense; decide, busy_tableOk, by unfold RequestsDistinct sameRequest; decide,
    by unfold PendingNodesAnswer; decide, by unfold PostedAheadBounded; decide⟩

theorem test_witness_Invariants_branches :
    ColumnsOk busy ∧ FlightsOk busy ∧ NodesApart busy ∧ ClaimTimersRun busy ∧ NoDrainLeftOpen busy := by
  refine ⟨busy_columnsOk, ⟨forall_branch (by decide) (by decide) (by decide) (by decide),
    forall_branch (by decide) (by decide) (by decide) (by decide)⟩, ?_, ?_, forall_branch ?_ ?_ ?_ ?_⟩
  · refine forall_branch ?_ ?_ ?_ ?_ <;> intro p tx hp ht
    · cases hp; cases ht; decide
    · cases hp
    · cases hp
    · cases hp
  · intro _ e he o d
    simp only [busy, List.mem_cons, List.not_mem_nil, or_false] at he
    rcases he with rfl | rfl | rfl <;> simp [entry]
  all_goals unfold Drained; decide

theorem busy_timersAboveZero : TimersAboveZero busy where
  claims e he o d := by
    simp only [busy, List.mem_cons, List.not_mem_nil, or_false] at he
    rcases he with rfl | rfl | rfl <;> simp [entry]
  reservations m r h := by obtain ⟨rfl, rfl⟩ := busy_reservation h; decide
  windows := forall_branch (fun _ h => by cases h) (fun _ h => by cases h) (fun _ h => by cases h) (fun _ h => by cases h)
  backoffs := forall_branch (fun _ h => by cases h) (fun _ h => by cases h) (fun _ h => by cases h) (fun _ h => by cases h)
  parks := forall_branch (fun _ h => by cases h) (fun _ h => by cases h) (fun _ h => by cases h) (fun _ h => by cases h)

theorem test_witness_Invariants_ranges : SettingsInRange busy ∧ CountsInRange busy ∧ ProbeSetsOk busy ∧ TimersAboveZero busy :=
  ⟨busy_settingsInRange, busy_countsInRange, busy_probeSetsOk, busy_timersAboveZero⟩

theorem test_witness_Invariants_step : step busy = .next (after (.sendComplete .b) { busy with pending := [] }) := rfl

/-! ### The choice event -/

/-- A branch with a due transaction parked, a posted head, a PENDING entry and a probe: every kind of candidate. -/
def fourUnit : BranchUnit :=
  { active with queue := [posted 3], park := some { tx := readTxn 5 8, delay := .due }, probeSet := [9] }

def four (u : BranchUnit) : State := { withA u with entries := [entry 1 2 7 .pending] }

theorem four_probeSetsOk (u : BranchUnit) (h : u.probeSet = [9]) : ProbeSetsOk (four u) := by
  refine forall_branch ?_ ⟨.nil, by simp [four, withA, unitOf, PerBranch.get, State.reset, branchReset]⟩
    ⟨.nil, by simp [four, withA, unitOf, PerBranch.get, State.reset, branchReset]⟩
    ⟨.nil, by simp [four, withA, unitOf, PerBranch.get, State.reset, branchReset]⟩
  show u.probeSet.Pairwise (· < ·) ∧ 0 ∉ u.probeSet
  rw [h]; decide

theorem four_isQ (u : BranchUnit) (h : u.probeSet = [9]) (hp : candidateQ u = some 9) : IsQ u 9 :=
  (candidateQ_iff u 9 (by rw [h]; decide)).1 hp

theorem not_isK {u : BranchUnit} (h : candidateK u = none) (tx : Txn) : ¬ IsK u tx :=
  fun hk => by rw [(candidateK_iff u tx).2 hk] at h; cases h

theorem not_isP {u : BranchUnit} (h : candidateP u = none) (r : PostedRecord) : ¬ IsP u r :=
  fun hk => by rw [(candidateP_iff u r).2 hk] at h; cases h

theorem not_isD {x : Branch} {s : State} (h : candidateD x s = none) (e : Entry) : ¬ IsD x s e :=
  fun hk => by rw [(candidateD_iff x s e).2 hk] at h; cases h

theorem test_witness_ChoiceFollowsTheSixCases :
    MayChoose (unitOf (four fourUnit) .a) ∧ NoOfflineHead (unitOf (four fourUnit) .a) ∧ ProbeSetsOk (four fourUnit) :=
  ⟨by unfold MayChoose; decide, .inr (by intro r h; cases h; decide), four_probeSetsOk _ rfl⟩

theorem test_witness_Issue_parked : Chosen .a (four fourUnit) (.parked (readTxn 5 8)) := rfl

theorem test_witness_Issue_probe : Chosen .a (four { fourUnit with park := none, probeDeferral := 8 }) (.probe 9) :=
  ⟨four_isQ _ rfl (by decide), not_isK (by decide), .inl (by decide)⟩

theorem test_witness_Issue_posted :
    Chosen .a (four { fourUnit with park := none, probeDeferral := 7, postedRun := 3 }) (.posted (posted 3)) ∧
      (nodeOf fourUnit 3).parity = .known false :=
  ⟨⟨(candidateP_iff _ _).1 (by decide), not_isK (by decide), .inl (by decide), .inr (by decide)⟩, by decide⟩

theorem test_witness_Issue_deferred :
    Chosen .a (four { fourUnit with park := none, probeDeferral := 7, postedRun := 4 }) (.deferred (entry 1 2 7 .pending)) :=
  ⟨(candidateD_iff _ _ _).1 (by decide), not_isK (by decide), .inl (by decide), .inr (by decide)⟩

theorem test_witness_Issue_nothing : Chosen .a (withA active) .nothing ∧ NoDrainLeftOpen (withA active) :=
  ⟨⟨not_isK (by decide), not_isP (by decide), not_isD (by decide), fun _ h => by cases h.1.1⟩,
    forall_branch nofun nofun nofun nofun⟩

theorem test_witness_ResyncProbeInPlaceOfAWrite :
    let s := withA (onNode 3 (fun r => { r with parity := .unsure }) { active with queue := [posted 3] })
    MayChoose (unitOf s .a) ∧ NoOfflineHead (unitOf s .a) ∧ (nodeOf (unitOf s .a) 3).parity = .unsure ∧
      Chosen .a s (.posted (posted 3)) :=
  ⟨by unfold MayChoose; decide, .inr (by intro r h; cases h; decide), by decide,
    ⟨(candidateP_iff _ _).1 (by decide), not_isK (by decide), .inl (by decide), .inr (by decide)⟩⟩

theorem test_witness_OfflineHeadsAreDroppedFirst :
    let s := withA (onNode 2 (fun r => { r with state := .offline }) { active with queue := [posted 2, posted 2, posted 0] })
    MayChoose (unitOf s .a) ∧ CountsInRange s ∧ (unitOf s .a).queue = [posted 2, posted 2] ++ [posted 0] ∧
      (∀ r ∈ [posted 2, posted 2], nodeIsOffline (unitOf s .a) r.node = true) ∧
      ∀ r, [posted 0].head? = some r → nodeIsOffline (unitOf s .a) r.node = false := by
  refine ⟨by unfold MayChoose; decide, forall_branch ?_ ?_ ?_ ?_, rfl, by decide, by intro r h; cases h; decide⟩ <;>
    exact ⟨by decide, by decide, by decide⟩

/-! ### The link -/

theorem test_witness_SendComplete :
    (unitOf (withA { active with engine := .transmit (writeTxn 0) rate }) .a).engine = .transmit (writeTxn 0) rate ∧
      (writeTxn 0).source = .posted ∧ (writeTxn 31).node ≠ 0 := by decide

theorem test_witness_StartMarkAndIgnoredFrames :
    busy.phase ≠ .pinLow ∧ (unitOf busy .a).receiver ≠ .ignoring ∧ (unitOf busy .a).engine = .await (readTxn 4 5) 500 ∧
      (∀ tx n, (unitOf busy .b).engine ≠ .await tx n) ∧ (unitOf busy .b).receiver = .clear ∧
      (unitOf (after (.startMark .b) busy) .b).receiver = .ignoring := by
  refine ⟨by decide, by decide, by decide, nofun, by decide, by decide⟩

theorem test_witness_ReplyFrameIsJudged :
    Receiving busy .a (readTxn 4 5) 500 rate ∧
      IsReply (readTxn 4 5) rate { bytes := replyBytes 5 false (.deny 15), endMark := true, rate := { kbps := 500, divisor := 50 } } (.deny 15) ∧
      endOf (.deny 15) = some (.denied 15) ∧
      ∀ r, ¬ IsReply (readTxn 4 5) rate { bytes := [], endMark := false, rate := rate } r :=
  ⟨⟨rfl, rfl⟩, ⟨rfl, by decide, rfl, .inl rfl, by decide⟩, rfl, fun _ h => by cases h.1⟩

theorem test_witness_HoldReply :
    Receiving busy .a (readTxn 4 5) 500 rate ∧
      IsReply (readTxn 4 5) rate { bytes := replyBytes 5 false .hold, endMark := true, rate := rate } .hold ∧
      (readTxn 4 5).holdsUsed + 1 < (unitOf busy .a).settings.holdLimit ∧ (unitOf busy .a).park ≠ none ∧
      (unitOf (withA { busyUnit with settings := { settingsReset with holdLimit := 1 } }) .a).settings.holdLimit ≤
        (readTxn 4 5).holdsUsed + 1 ∧
      (unitOf (withA { busyUnit with park := none }) .a).park = none :=
  ⟨⟨rfl, rfl⟩, ⟨rfl, by decide, rfl, .inl rfl⟩, by decide, by decide, by decide, rfl⟩

/-- Windows and delays with the last tick left, and at zero, where the engine also stands when an invalid reply ends the window. -/
theorem test_witness_ReplyWindowExpiry :
    (unitOf (withA { active with engine := .await (readTxn 4 5) 1 }) .a).engine = .await (readTxn 4 5) 1 ∧
      (readTxn 4 5).resendsUsed < settingsReset.resendLimit ∧
      (unitOf (withA { active with engine := .await { readTxn 4 5 with resendsUsed := 2 } 0 }) .a).engine =
        .await { readTxn 4 5 with resendsUsed := 2 } 0 ∧
      settingsReset.resendLimit ≤ ({ readTxn 4 5 with resendsUsed := 2 } : Txn).resendsUsed := by decide

theorem test_witness_HoldDelayExpiries :
    (unitOf (withA { active with park := some { tx := writeTxn 2, delay := .waiting 1 } }) .a).park =
        some { tx := writeTxn 2, delay := .waiting 1 } ∧
      (unitOf (withA { active with engine := .backoff (readTxn 4 5) 0 }) .a).engine = .backoff (readTxn 4 5) 0 := by decide

theorem test_witness_EndOfADeferredTransaction :
    TableOk crowd ∧ (readTxn 1 5).source = .slot (entry 1 2 5 (.issued false)).slot ∧ entry 1 2 5 (.issued false) ∈ crowd.entries ∧
      TableOk (after (.abandon 0 2) crowd) ∧ entry 1 2 5 (.issued true) ∈ (after (.abandon 0 2) crowd).entries := by
  have hr : ∀ {m r}, (after (.abandon 0 2) crowd).reservations.get m = some r → m = 0 ∧ r = { slot := 3, remaining := 256 } := by
    intro m r h
    match m with
    | 0 => cases h; exact ⟨rfl, rfl⟩
    | 1 => cases h
    | 2 => cases h
    | 3 => cases h
  refine ⟨crowd_tableOk, rfl, by decide, ⟨by decide, ?_, ?_, by decide, by decide, by decide, by decide⟩, by decide⟩
  · intro m r h; obtain ⟨rfl, rfl⟩ := hr h; decide
  · intro m n r q h k _; rw [(hr h).1, (hr k).1]

theorem test_witness_EndOfAPostedTransaction :
    (writeTxn 2).source = .posted ∧ (unitOf busy .a).queue = posted 2 :: [posted 3] := by decide

theorem test_witness_EndWithAValidReply :
    (readTxn 4 5).node ≠ 0 ∧ TxEnd.done ≠ .noReply ∧ (probeTxn .probeSet 9).source = .probeSet ∧ (probeTxn .resync 9).source = .resync ∧
      (writeTxn 0).node = 0 := by decide

theorem test_witness_EndWithNoReply :
    (nodeOf (onNode 5 (fun r => { r with state := .offline }) active) 5).state = .offline ∧
      (nodeOf active 5).state ≠ .offline ∧ min 15 ((nodeOf active 5).failures + 1) < active.settings.offlineThreshold ∧
      (let u := onNode 5 (fun r => { r with state := .suspect, failures := 2 }) active
       (nodeOf u 5).state ≠ .offline ∧ u.settings.offlineThreshold ≤ min 15 ((nodeOf u 5).failures + 1)) := by decide

theorem test_witness_NodeAnswersValidlyAndExecutesOnce :
    let n : NodeModel := { addr := 31, nodeType := 0x21, lastExecuted := false, executed := [] }
    n.addr ≠ 0 ∧ (writeTxn 31).node = n.addr ∧ (writeTxn 31).op = .write ∧ (writeTxn 31).parity ≠ n.lastExecuted ∧
      NodeWill.obey [] ≠ .deny 0 ∧ (readTxn 0 31).node = n.addr ∧
      ∀ contents, NodeWill.obey [1, 2, 3, 4] = .obey contents → contents.length = (readTxn 0 31).width.bytes :=
  ⟨by decide, rfl, rfl, by decide, by decide, rfl, fun _ h => by cases h; rfl⟩

/-! ### Branch control, resets and the tick -/

theorem test_witness_BranchCommandTable :
    busy.phase = .run ∧ ((unitOf (withA active) .a).ctrl = .active ∧ Drained (withA active) .a) ∧
      ((unitOf (after (.resume 0 .a) busy) .a).ctrl = .active ∧ ¬ Drained (after (.resume 0 .a) busy) .a) ∧
      (unitOf busy .a).ctrl = .draining ∧ (unitOf (after (.release 0 .b) busy) .b).ctrl = .quiesced ∧ (unitOf busy .b).ctrl = .held := by
  unfold Drained; decide

theorem test_witness_HoldEntersHeld : crowd.phase = .run ∧ TableOk crowd ∧ (unitOf crowd .a).ctrl ≠ .held :=
  ⟨rfl, crowd_tableOk, by decide⟩

theorem test_witness_ProbeAndRevive : busy.phase = .run ∧ (unitOf busy .b).ctrl = .held ∧ (unitOf busy .a).ctrl ≠ .held ∧ (31 : Node) ≠ 0 := by
  decide

theorem test_witness_DrainComplete :
    (unitOf (withA { active with ctrl := .draining }) .a).ctrl = .draining ∧ Drained (withA { active with ctrl := .draining }) .a := by
  unfold Drained; decide

theorem test_witness_Resets :
    busy.phase = .run ∧ (after .pinReset busy).phase = .pinLow ∧ (after .rstNRelease (after .pinReset busy)).phase = .initialising ∧
      (after (.chipReset 0) busy).phase = .chipReset := by decide

/-- In `crowd` no timer reaches zero; in `busy` a claim timer and a reservation do. -/
theorem test_witness_Tick :
    TableOk crowd ∧ (∀ t, ¬ ReachesZero crowd t) ∧ TableOk busy ∧ ReachesZero busy (.reservation 3) ∧ ReachesZero busy (.claim 0) ∧
      [Timer.reservation 3, .claim 7].Nodup := by
  refine ⟨crowd_tableOk, fun t h => ?_, busy_tableOk, ⟨_, rfl, by decide⟩,
    (reachesZero_iff busy_tableOk.slots_nodup _).2 ⟨1, rfl, by decide⟩, by decide⟩
  rw [reachesZero_iff crowd_tableOk.slots_nodup] at h
  obtain ⟨n, hn, hl⟩ := h
  have none_due : ∀ t ∈ allTimers, ∀ n ≤ 1, timeLeft t crowd ≠ some n := by decide
  exact none_due t (mem_allTimers t) n hl hn

theorem test_witness_EventsThatDoNotArise :
    ¬ MayChoose (unitOf busy .a) ∧ (∀ tx r, (unitOf busy .b).engine ≠ .transmit tx r) ∧
      ¬ ReachesZero busy (.replyWindow .a) ∧ ¬ ReachesZero busy (.backoffHold .b) ∧ ¬ ReachesZero busy (.parkedHold .a) ∧
      ¬ ((unitOf busy .a).ctrl = .draining ∧ Drained busy .a) ∧ busy.phase ≠ .pinLow ∧ busy.phase ≠ .initialising ∧ busy.phase ≠ .chipReset := by
  refine ⟨by unfold MayChoose; decide, nofun, ?_, ?_, ?_, by unfold Drained; decide, by decide, by decide, by decide⟩ <;>
    · rw [reachesZero_iff busy_tableOk.slots_nodup]
      rintro ⟨n, h, hn⟩
      revert hn; cases h <;> decide

end Sys2Proof.Tests
end

section
/-! Repeats of an unfinished request (section 2.3, R30): how HOST_ACCESS runs admission, and what a repeat of an entry
that is not READY is answered. -/

namespace Sys2Proof.Machine

/-- HOST_ACCESS is admission of its access (R43). -/
theorem exec_hostAccess (a : Access) (s : State) : exec (.hostAccess a) s = .next (runAdmission a s) :=
  rfl

/-- An access that repeats a live request is answered from the oldest entry it matches (R28). -/
theorem exec_hostAccess_of_repeat {a : Access} {w : Width} {e : Entry} {s : State} (hs : ReachesSearch a w s)
    (hm : OldestMatch a w s e) : exec (.hostAccess a) s = .next (answerRepeat a w e s) := by
  rw [exec_hostAccess, runAdmission_of_repeat hs hm]

/-- RETRY in the manual's words: the lanes are those of a response without data (R156). -/
theorem respondRetry_eq (a : Access) (s : State) : respondRetry a s = respond a.master .retry (noData a.kind) s := by
  rw [respondRetry, noData_eq]

theorem answerRepeat_of_pending {e : Entry} (h : e.state = .pending) (a : Access) (w : Width) (s : State) :
    answerRepeat a w e s = respondRetry a s := by
  simp only [answerRepeat, h]

/-- The abandoned mark does not enter into the answer. -/
theorem answerRepeat_of_issued {e : Entry} {abandoned : Bool} (h : e.state = .issued abandoned) (a : Access) (w : Width)
    (s : State) : answerRepeat a w e s = respondRetry a s := by
  simp only [answerRepeat, h]

/-- Settles O10: the search finds the oldest match, and both unfinished states are answered by RETRY alone. -/
theorem repeatOfUnfinishedEntryIsRetried : Obligations.RepeatOfUnfinishedEntryIsRetried := by
  intro a w e s hs hm hstate
  rw [exec_hostAccess_of_repeat hs hm, ← respondRetry_eq]
  rcases hstate with hpending | ⟨abandoned, hissued⟩
  · rw [answerRepeat_of_pending hpending]
  · rw [answerRepeat_of_issued hissued]

end Sys2Proof.Machine
end

section
/-! Send-complete (section 6.3, R104): how SEND_COMPLETE parts broadcasts from addressed transactions, and what the end of a
broadcast of the posted head comes to. -/

namespace Sys2Proof.Machine

/-! ### SEND_COMPLETE in TRANSMIT -/

/-- SEND_COMPLETE always answers a next state: that of the finished send. -/
theorem exec_sendComplete (x : Branch) (s : State) : exec (.sendComplete x) s = .next (finishSend x s) :=
  rfl

/-- A broadcast ends at once, with no reply awaited (R104). -/
theorem finishSend_of_broadcast {x : Branch} {tx : Txn} {rate : LineRate} {s : State}
    (he : (unitOf s x).engine = .transmit tx rate) (hn : tx.node = 0) :
    finishSend x s = Ended x tx .broadcastSent s := by
  simp only [finishSend, he, if_pos hn, endTxn_eq]

/-- The reply window counts the setting in units of 10 µs (R104). -/
theorem finishSend_of_addressed {x : Branch} {tx : Txn} {rate : LineRate} {s : State}
    (he : (unitOf s x).engine = .transmit tx rate) (hn : tx.node ≠ 0) :
    finishSend x s = onUnit x (fun u => { u with engine := .await tx (u.settings.replyWindow * 10) }) s := by
  simp only [finishSend, he, if_neg hn, Config.linkUnit]

/-! ### The parts of an end -/

/-- A transaction to node 0 has no record in the Node Table (R111, R121). -/
theorem endNode_of_broadcast {tx : Txn} (hn : tx.node = 0) (x : Branch) (en : TxEnd) (s : State) : endNode x tx en s = s :=
  if_pos hn

theorem endSource_of_posted {tx : Txn} (hs : tx.source = .posted) (x : Branch) (en : TxEnd) (s : State) :
    endSource x tx en s = endPosted x en s := by
  simp only [endSource, hs]

/-- An end that drops no write offers no record: the head leaves, and that is all (R71, R72). -/
theorem endPosted_of_no_drop {en : TxEnd} (hd : dropReasonOf en = none) (x : Branch) (s : State) :
    endPosted x en s = departHead x s := by
  rw [endPosted, hd]
  cases (unitOf s x).queue <;> rfl

/-- A departure as one change of the branch's column and one of the entries, in the manual's words (R70). -/
theorem departHead_eq_onEntries (x : Branch) (s : State) :
    departHead x s =
      onEntries (fun e => if e.branch = x ∧ e.state = .pending then { e with postedAhead := e.postedAhead - 1 } else e)
        (onUnit x (fun u => { u with queue := u.queue.tail, headInFlight := false }) s) :=
  departHead_eq x s

/-- The end of a broadcast of the posted head is the head's departure, and the completion of a drain that it finishes. -/
theorem ended_of_posted_broadcast {tx : Txn} (hn : tx.node = 0) (hs : tx.source = .posted) (x : Branch) (s : State) :
    Ended x tx .broadcastSent s = completeDrain x (departHead x (idled x s)) := by
  rw [Ended, endNode_of_broadcast hn, endSource_of_posted hs, endPosted_of_no_drop rfl]

/-- Settles O41: a broadcast takes the end of a transaction, whose one effect beside the idle engine is the departure of its
head; any other transaction is awaited. -/
theorem sendComplete : Obligations.SendComplete := by
  intro x tx rate s he
  rw [exec_sendComplete]
  constructor
  · intro hn hs
    rw [finishSend_of_broadcast he hn, ended_of_posted_broadcast hn hs, departHead_eq_onEntries]
  · intro hn
    rw [finishSend_of_addressed he hn]

end Sys2Proof.Machine
end

section
/-! Branch commands (section 8.1, R136): how each command runs in RUN, what it does in each branch state, and the column of a
branch after its HELD entry. -/

namespace Sys2Proof.Machine

/-! ### The commands at a port in RUN -/

/-- In RUN a register command takes effect and is answered COMPLETE (R45). -/
theorem registerCommand_of_run {s : State} (hrun : s.phase = .run) (m : Master) (effect : State → State) :
    registerCommand m effect s = respond m .complete none (effect s) := by
  simp only [registerCommand, hrun, ne_eq, not_true_eq_false, if_false]

section Run
variable {s : State} (hrun : s.phase = .run) (m : Master) (x : Branch)
include hrun

theorem exec_quiesce_of_run : exec (.quiesce m x) s = .next (respond m .complete none (quiesceBranch x s)) :=
  congrArg _ (registerCommand_of_run hrun m _)

theorem exec_resume_of_run : exec (.resume m x) s = .next (respond m .complete none (resumeBranch x s)) :=
  congrArg _ (registerCommand_of_run hrun m _)

theorem exec_hold_of_run : exec (.hold m x) s = .next (respond m .complete none (holdBranch x s)) :=
  congrArg _ (registerCommand_of_run hrun m _)

theorem exec_release_of_run : exec (.release m x) s = .next (respond m .complete none (releaseBranch x s)) :=
  congrArg _ (registerCommand_of_run hrun m _)

theorem exec_unknownBranchCommand_of_run (code : BitVec 4) :
    exec (.unknownBranchCommand m x code) s = .next (respond m .complete none (branchCommand x code.toNat s)) :=
  congrArg _ (registerCommand_of_run hrun m _)

end Run

/-! ### QUIESCE -/

/-- The drained condition does not look at the branch state (R138). -/
theorem drained_onUnit_ctrl (x : Branch) (c : BranchState) (s : State) :
    Drained (onUnit x (fun u => { u with ctrl := c }) s) x ↔ Drained s x := by
  simp only [Drained, unitOf_onUnit, onUnit_entries, if_true]

theorem drainedState_eq (x : Branch) (s : State) :
    drainedState x s = setQuiesced x (onUnit x (fun u => { u with ctrl := .quiesced }) s) :=
  rfl

/-- A drain completion overwrites the branch state. -/
theorem drainedState_onUnit_ctrl (x : Branch) (c : BranchState) (s : State) :
    drainedState x (onUnit x (fun u => { u with ctrl := c }) s) = drainedState x s := by
  simp only [drainedState_eq, onUnit_onUnit]

section BranchStates
variable {x : Branch} {s : State}

/-- On a drained branch the completion follows in the same event (R137, R139). -/
theorem quiesceBranch_of_active_drained (hc : (unitOf s x).ctrl = .active) (hd : Drained s x) :
    quiesceBranch x s = drainedState x s := by
  have hdraining : (unitOf (onUnit x (fun u => { u with ctrl := .draining }) s) x).ctrl = .draining := by
    rw [unitOf_onUnit, if_pos rfl]
  simp only [quiesceBranch, hc]
  rw [completeDrain_of_drained hdraining ((drained_onUnit_ctrl x _ s).2 hd), drainedState_onUnit_ctrl]

theorem quiesceBranch_of_active_not_drained (hc : (unitOf s x).ctrl = .active) (hd : ¬ Drained s x) :
    quiesceBranch x s = onUnit x (fun u => { u with ctrl := .draining }) s := by
  simp only [quiesceBranch, hc]
  exact completeDrain_of_not fun h => hd ((drained_onUnit_ctrl x _ s).1 h.2)

theorem quiesceBranch_of_draining_or_quiesced (hc : (unitOf s x).ctrl = .draining ∨ (unitOf s x).ctrl = .quiesced) :
    quiesceBranch x s = s := by
  rcases hc with hc | hc <;> simp only [quiesceBranch, hc]

theorem quiesceBranch_of_held (hc : (unitOf s x).ctrl = .held) : quiesceBranch x s = refuseCommand s := by
  simp only [quiesceBranch, hc]

/-! ### RESUME -/

theorem resumeBranch_of_active (hc : (unitOf s x).ctrl = .active) : resumeBranch x s = s := by
  simp only [resumeBranch, hc]

theorem resumeBranch_of_draining_or_quiesced (hc : (unitOf s x).ctrl = .draining ∨ (unitOf s x).ctrl = .quiesced) :
    resumeBranch x s = onUnit x (fun u => { u with ctrl := .active }) s := by
  rcases hc with hc | hc <;> simp only [resumeBranch, hc]

theorem resumeBranch_of_held (hc : (unitOf s x).ctrl = .held) : resumeBranch x s = refuseCommand s := by
  simp only [resumeBranch, hc]

/-! ### HOLD and RELEASE -/

theorem holdBranch_of_held (hc : (unitOf s x).ctrl = .held) : holdBranch x s = s := by
  simp only [holdBranch, hc]

theorem holdBranch_of_not_held (hc : (unitOf s x).ctrl ≠ .held) : holdBranch x s = enterHeld x s := by
  unfold holdBranch
  split
  · contradiction
  · rfl

theorem releaseBranch_of_held (hc : (unitOf s x).ctrl = .held) :
    releaseBranch x s = onUnit x (fun u => { u with ctrl := .quiesced, engine := .idle }) s := by
  simp only [releaseBranch, hc]

theorem releaseBranch_of_not_held (hc : (unitOf s x).ctrl ≠ .held) : releaseBranch x s = refuseCommand s := by
  unfold releaseBranch
  split
  · contradiction
  · rfl

end BranchStates

/-! ### The column of a branch after its HELD entry -/

@[simp] theorem unitOf_freeSlot (k : Slot) (s : State) (x : Branch) : unitOf (freeSlot k s) x = unitOf s x := by
  rw [freeSlot_frame]; rfl

/-- Freeing slots leaves every branch's column as it is, whatever the entries and the waiting list. -/
@[simp] theorem unitOf_freeSlotsWhere (p : Entry → Bool) (s : State) (x : Branch) :
    unitOf (freeSlotsWhere p s) x = unitOf s x := by
  unfold freeSlotsWhere
  generalize slotsWhere p s = ks
  induction ks generalizing s with
  | nil => rfl
  | cons k ks ih => rw [List.foldl_cons, ih, unitOf_freeSlot]

@[simp] theorem unitOf_offerFlushed (x : Branch) (n : Nat) (s : State) (y : Branch) :
    unitOf (offerFlushed x n s) y = unitOf s y := by
  unfold offerFlushed
  split
  · rfl
  · exact unitOf_offer _ s y

/-- The HELD entry touches the column of its own branch alone (R142). -/
@[simp] theorem unitOf_enterHeld (x y : Branch) (s : State) :
    unitOf (enterHeld x s) y = if y = x then heldUnit (unitOf s y) else unitOf s y := by
  simp only [enterHeld, unitOf_freeSlotsWhere, unitOf_onEntries, unitOf_onUnit, unitOf_offerFlushed]

/-! ### Codes outside the table -/

/-- A code that names none of the four commands is refused in every branch state (R136). -/
theorem branchCommand_of_unknown {code : Nat} (h1 : code ≠ 1) (h2 : code ≠ 2) (h3 : code ≠ 3) (h4 : code ≠ 4) (x : Branch)
    (s : State) : branchCommand x code s = refuseCommand s := by
  unfold branchCommand
  split
  · exact absurd rfl h1
  · exact absurd rfl h2
  · exact absurd rfl h3
  · exact absurd rfl h4
  · rfl

/-- Settles O54: in RUN every command is answered COMPLETE with its effect, and the effect is read off the branch state. -/
theorem branchCommandTable : Obligations.BranchCommandTable := by
  intro m x s hrun
  rw [exec_quiesce_of_run hrun, exec_resume_of_run hrun, exec_hold_of_run hrun, exec_release_of_run hrun]
  refine ⟨fun hactive => ⟨fun hd => ?_, fun hd => ?_, ?_⟩, fun hopen => ⟨?_, ?_⟩, fun hother => ⟨?_, ?_⟩,
    fun hheld => ⟨?_, ?_, ?_, ?_⟩, fun code h1 h2 h3 h4 => ?_, rfl⟩
  · rw [quiesceBranch_of_active_drained hactive hd]
  · rw [quiesceBranch_of_active_not_drained hactive hd]
  · rw [resumeBranch_of_active hactive]
  · rw [quiesceBranch_of_draining_or_quiesced hopen]
  · rw [resumeBranch_of_draining_or_quiesced hopen]
  · rw [holdBranch_of_not_held hother]
    exact ⟨_, rfl, by rw [unitOf_respond, unitOf_enterHeld, if_pos rfl, heldUnit], rfl⟩
  · rw [releaseBranch_of_not_held hother, refuseCommand]
  · rw [quiesceBranch_of_held hheld, refuseCommand]
  · rw [resumeBranch_of_held hheld, refuseCommand]
  · rw [holdBranch_of_held hheld]
  · rw [releaseBranch_of_held hheld]
  · rw [exec_unknownBranchCommand_of_run hrun, branchCommand_of_unknown (by bv_omega) (by bv_omega) (by bv_omega) (by bv_omega),
      refuseCommand]

end Sys2Proof.Machine
end

section
/-! Step 2 of admission (section 3.1, R44, R158): the width a code names, the accesses that pass the step, and the answer to
those that do not. -/

namespace Sys2Proof.Machine

/-- The codes of R158; code 11 stands in none of the three cases. -/
theorem widthOf_eq_some_iff (code : BitVec 2) (w : Width) : widthOf code = some w ↔
    (code = 0b00#2 ∧ w = .w1) ∨ (code = 0b01#2 ∧ w = .w2) ∨ (code = 0b10#2 ∧ w = .w4) := by
  revert code
  cases w <;> decide

/-- The two parts of the step: the code names a width, and the address is a multiple of it. -/
theorem alignedWidth_eq_some_iff (a : Access) (w : Width) :
    alignedWidth a = some w ↔ widthOf a.widthCode = some w ∧ a.addr.toNat % w.bytes = 0 := by
  rw [alignedWidth, Option.filter_eq_some_iff, decide_eq_true_eq]

theorem alignedWidth_of_code_three {a : Access} (h : a.widthCode = 0b11#2) : alignedWidth a = none := by
  have hcode : widthOf a.widthCode = none := by rw [h]; rfl
  rw [alignedWidth, hcode, Option.filter_none]

theorem alignedWidth_of_misaligned {a : Access} {w : Width} (hcode : widthOf a.widthCode = some w)
    (haddr : a.addr.toNat % w.bytes ≠ 0) : alignedWidth a = none := by
  rw [alignedWidth, hcode, Option.filter_some, decide_eq_false haddr, if_neg Bool.false_ne_true]

/-- An access that step 2 does not let pass is decided there, before its address or direction is looked at (R44). -/
theorem runAdmission_of_unaligned {a : Access} {s : State} (hrun : s.phase = .run) (hw : alignedWidth a = none) :
    runAdmission a s = respond a.master .fault (noData a.kind) (offer (.accessFault .misaligned a.master a.addr) s) := by
  have hport : ¬ s.phase ≠ .run := fun h => h hrun
  rw [runAdmission, if_neg hport, hw, noData_eq]
  rfl

/-- Settles O4: both faults are one, that of an access which step 2 gives no width. -/
theorem widthCodeStep : Obligations.WidthCodeStep := by
  refine ⟨fun a w => ?_, fun a s hrun hcode => ?_, fun a w s hrun hcode haddr => ?_⟩
  · rw [alignedWidth_eq_some_iff, widthOf_eq_some_iff]
  · rw [exec_hostAccess, runAdmission_of_unaligned hrun (alignedWidth_of_code_three hcode)]
  · rw [exec_hostAccess, runAdmission_of_unaligned hrun (alignedWidth_of_misaligned hcode haddr)]

end Sys2Proof.Machine
end

section
/-! Settings (section 10.8, R162, R163): a width-4 write of a listed register, where the settings stand in the window, and each
settings word with its fields as they are stored. -/

namespace Sys2Proof.Machine

/-! ### A register write that reaches its register -/

/-- REGISTER_WRITE is admission of the write at its offset of the window (R162). -/
theorem exec_registerWrite (m : Master) (o : BitVec 12) (code : BitVec 2) (w : Word) (s : State) :
    exec (.registerWrite m o code w) s =
      .next (runAdmission { master := m, kind := .write, addr := o.setWidth 22, widthCode := code, lanes := w } s) :=
  rfl

/-- The map lists registers at whole words only (R162). -/
theorem regAt_aligned {o : Nat} {r : Reg} (h : regAt o = some r) : o % 4 = 0 := by
  by_contra hne
  simp only [regAt, ne_eq, hne, not_false_eq_true, if_true, reduceCtorEq] at h

/-- In RUN, a 4-byte write of a register that takes writes passes steps 1 and 2 and is answered COMPLETE with its effect (R45). -/
theorem exec_registerWrite_of_effect {o : BitVec 12} {r : Reg} {w : Word} {s t : State} (hrun : s.phase = .run)
    (hreg : regAt o.toNat = some r) (heffect : writeReg r w s = some t) (m : Master) :
    exec (.registerWrite m o 0b10#2 w) s = .next (respond m .complete none t) := by
  have haddr : (o.setWidth 22).toNat = o.toNat := BitVec.toNat_setWidth_of_le (by decide)
  have hwidth : alignedWidth { master := m, kind := .write, addr := o.setWidth 22, widthCode := 0b10#2, lanes := w } = some .w4 :=
    (alignedWidth_eq_some_iff _ _).2 ⟨rfl, by rw [haddr]; exact regAt_aligned hreg⟩
  have hport : ¬ s.phase ≠ .run := fun h => h hrun
  have hwindow : o.toNat < Config.windowSize := o.isLt
  rw [exec_registerWrite, runAdmission, if_neg hport, hwidth]
  simp only [haddr, hwindow, if_true, registerAccess, hreg, heffect, respondTaken]

/-! ### Where the settings stand -/

theorem regAt_apertureWord0 (n : Fin 16) : regAt (BitVec.ofNat 12 (0x100 + 8 * n.val)).toNat = some (.apertureWord0 n) := by
  decide +revert

theorem regAt_apertureWord1 (n : Fin 16) : regAt (BitVec.ofNat 12 (0x104 + 8 * n.val)).toNat = some (.apertureWord1 n) := by
  decide +revert

theorem branchOfCode_branchCode (x : Branch) : branchOfCode (branchCode x) = x := by
  cases x <;> rfl

theorem branchCode_lt (x : Branch) : branchCode x < 4 := by
  cases x <;> decide

/-- The blocks of the branches: 0x40 bytes for each, from 0x200. -/
theorem regAt_of_branchBlock {o : Nat} {x : Branch} (hword : o % 4 = 0) (hblock : o / 0x40 = 8 + branchCode x) :
    regAt o = branchReg x (o / 4 % 16) := by
  have hcode := branchCode_lt x
  have hbranch : (o - 0x200) / 0x40 = branchCode x := by omega
  simp only [regAt]
  rw [if_neg (by omega), if_neg (by omega), if_neg (by omega), if_neg (by omega), if_pos (by omega), hbranch,
    branchOfCode_branchCode]

theorem regAt_branchRates (x : Branch) : regAt (BitVec.ofNat 12 (0x208 + 0x40 * branchCode x)).toNat = some (.branchRates x) := by
  have hcode := branchCode_lt x
  have hplace : (0x208 + 0x40 * branchCode x) / 4 % 16 = 2 := by omega
  rw [BitVec.toNat_ofNat, Nat.mod_eq_of_lt (by omega), regAt_of_branchBlock (x := x) (by omega) (by omega), hplace, branchReg]

theorem regAt_branchLink (x : Branch) : regAt (BitVec.ofNat 12 (0x20C + 0x40 * branchCode x)).toNat = some (.branchLink x) := by
  have hcode := branchCode_lt x
  have hplace : (0x20C + 0x40 * branchCode x) / 4 % 16 = 3 := by omega
  rw [BitVec.toNat_ofNat, Nat.mod_eq_of_lt (by omega), regAt_of_branchBlock (x := x) (by omega) (by omega), hplace, branchReg]

/-! ### Fields and codes as stored -/

/-- A field's value is that of the bits it is made of. -/
theorem fieldOf_eq_extractLsb' (w : Word) (lo len : Nat) : fieldOf w lo len = (w.extractLsb' lo len).toNat :=
  rfl

theorem ofNat_fieldOf (w : Word) (lo len : Nat) : BitVec.ofNat len (fieldOf w lo len) = w.extractLsb' lo len := by
  rw [fieldOf_eq_extractLsb', BitVec.ofNat_toNat, BitVec.setWidth_eq]

/-- A field in which only 0 names no value is stored as 1 there (R163). -/
theorem max_one_toNat {n : Nat} (v : BitVec n) : max 1 v.toNat = if v = 0 then 1 else v.toNat := by
  split
  case isTrue hzero => rw [hzero]; rfl
  case isFalse hne =>
    have hpos : v.toNat ≠ 0 := fun h => hne (BitVec.eq_of_toNat_eq h)
    omega

/-- The divisor's codes below 4 and above 50 are stored as the nearest value (R163). -/
theorem clampField_divisor (v : Nat) : clampField 4 50 v = if v < 4 then 4 else if 50 < v then 50 else v := by
  unfold clampField
  split_ifs <;> omega

/-- Codes 5 to 7 name the rate of code 4 (R98, R163). -/
theorem bitRateOf_min (v : Nat) : bitRateOf (min 4 v) = bitRateOf v := by
  rcases lt_or_ge v 4 with hlow | hhigh
  · rw [Nat.min_eq_right hlow.le]
  · obtain ⟨k, rfl⟩ := Nat.exists_eq_add_of_le' hhigh
    rw [Nat.min_eq_left hhigh]
    rfl

/-! ### The settings words as stored -/

theorem writeDivisor_eq (w : Word) (s : State) : writeDivisor w s =
    { s with divisor :=
        if (w.extractLsb' 0 6).toNat < 4 then 4 else if 50 < (w.extractLsb' 0 6).toNat then 50 else (w.extractLsb' 0 6).toNat } := by
  rw [writeDivisor, clampField_divisor, fieldOf_eq_extractLsb']

theorem writeQuotas_eq (w : Word) (s : State) : writeQuotas w s =
    { s with quotas := ⟨min 12 (w.extractLsb' 0 4).toNat, min 12 (w.extractLsb' 8 4).toNat,
                        min 12 (w.extractLsb' 16 4).toNat, min 12 (w.extractLsb' 24 4).toNat⟩ } :=
  rfl

theorem withWord0_eq (w : Word) (a : Aperture) : withWord0 w a =
    { a with
      enable := w.getLsbD 0
      cls := if w.getLsbD 1 then .deferred else .posted
      readOk := w.getLsbD 2
      writeOk := w.getLsbD 3
      errorMode := if w.getLsbD 4 then .absorb else .report
      wordFetch := w.getLsbD 5
      basePage := w.extractLsb' 8 14
      sizeCode := min 8 (w.extractLsb' 24 4).toNat } := by
  rw [withWord0, ofNat_fieldOf]
  rfl

theorem withWord1_eq (w : Word) (a : Aperture) : withWord1 w a =
    { a with
      regBase := w.extractLsb' 0 16
      node := ⟨(w.extractLsb' 16 5).toNat, (w.extractLsb' 16 5).isLt⟩
      branch := branchOfCode (w.extractLsb' 24 2).toNat } := by
  rw [withWord1, ofNat_fieldOf]
  rfl

theorem withRates_eq (w : Word) (t : BranchSettings) : withRates w t =
    { t with
      bitRate := bitRateOf (min 4 (w.extractLsb' 0 3).toNat)
      postedAllowance := if w.extractLsb' 8 4 = 0 then 1 else (w.extractLsb' 8 4).toNat
      offlineThreshold := if w.extractLsb' 16 4 = 0 then 1 else (w.extractLsb' 16 4).toNat } := by
  simp only [withRates, fieldOf_eq_extractLsb', max_one_toNat, bitRateOf_min]

theorem withLink_eq (w : Word) (t : BranchSettings) : withLink w t =
    { t with
      replyWindow := if w.extractLsb' 0 8 = 0 then 1 else (w.extractLsb' 0 8).toNat
      holdDelay := if w.extractLsb' 8 8 = 0 then 1 else (w.extractLsb' 8 8).toNat
      resendLimit := (w.extractLsb' 16 3).toNat
      holdLimit := if w.extractLsb' 20 10 = 0 then 1 else (w.extractLsb' 20 10).toNat } := by
  simp only [withLink, fieldOf_eq_extractLsb', max_one_toNat]

/-! ### The refused commands -/

/-- Node 0 cannot be probed, in any branch state (R130). -/
theorem probeNode_zero (x : Branch) (s : State) : probeNode x 0 s = refuseCommand s :=
  if_pos (.inr rfl)

/-- Node 0 cannot be revived, in any branch state (R131). -/
theorem reviveNode_zero (x : Branch) (s : State) : reviveNode x 0 s = refuseCommand s :=
  if_pos (.inr rfl)

theorem exec_probe_of_run {s : State} (hrun : s.phase = .run) (m : Master) (x : Branch) (n : Node) :
    exec (.probe m x n) s = .next (respond m .complete none (probeNode x n s)) :=
  congrArg _ (registerCommand_of_run hrun m _)

theorem exec_revive_of_run {s : State} (hrun : s.phase = .run) (m : Master) (x : Branch) (n : Node) :
    exec (.revive m x n) s = .next (respond m .complete none (reviveNode x n s)) :=
  congrArg _ (registerCommand_of_run hrun m _)

/-- Settles O16: each settings word is found at its offset and its write stores the word's fields; the codes that R163 calls
refused reach `refuseCommand`. -/
theorem settingsAreStoredAsCoded : Obligations.SettingsAreStoredAsCoded := by
  intro m w s hrun
  refine ⟨?_, ?_, fun n => ⟨?_, ?_⟩, fun x => ⟨?_, ?_⟩, fun x code h1 h2 h3 h4 => ?_, fun x => ⟨?_, ?_⟩⟩
  · exact exec_registerWrite_of_effect hrun (r := .divisor) rfl (congrArg some (writeDivisor_eq w s)) m
  · exact exec_registerWrite_of_effect hrun (r := .quotas) rfl (congrArg some (writeQuotas_eq w s)) m
  · rw [exec_registerWrite_of_effect hrun (regAt_apertureWord0 n) rfl, funext (withWord0_eq w)]
  · rw [exec_registerWrite_of_effect hrun (regAt_apertureWord1 n) rfl, funext (withWord1_eq w)]
  · rw [exec_registerWrite_of_effect hrun (regAt_branchRates x) rfl, funext (withRates_eq w)]
  · rw [exec_registerWrite_of_effect hrun (regAt_branchLink x) rfl, funext (withLink_eq w)]
  · rw [exec_unknownBranchCommand_of_run hrun, branchCommand_of_unknown (by bv_omega) (by bv_omega) (by bv_omega) (by bv_omega),
      refuseCommand]
  · rw [exec_probe_of_run hrun, probeNode_zero, refuseCommand]
  · rw [exec_revive_of_run hrun, reviveNode_zero, refuseCommand]

end Sys2Proof.Machine
end

section
/-! The identification register (section 11.1, R170): admission of an access that comes in RESET, what the register window answers
(section 10.5, R45, R162), and the word at address 0. -/

namespace Sys2Proof.Machine

/-! ### The register window as a part of admission -/

/-- Step 1: in RESET every access is answered by RETRY alone (R43). -/
theorem runAdmission_of_not_run {s : State} (hreset : s.phase ≠ .run) (a : Access) :
    runAdmission a s = respond a.master .retry (noData a.kind) s := by
  rw [runAdmission, if_pos hreset, respondRetry_eq]

/-- Step 3: an access that passes steps 1 and 2 with an address of the window is decided by the window alone (R45). -/
theorem runAdmission_of_window {a : Access} {w : Width} {s : State} (hrun : s.phase = .run) (hwidth : alignedWidth a = some w)
    (hwindow : a.addr.toNat < Config.windowSize) : runAdmission a s = registerAccess a w s := by
  have hport : ¬ s.phase ≠ .run := fun h => h hrun
  rw [runAdmission, if_neg hport, hwidth]
  exact if_pos hwindow

/-- An access refused with a record, in the manual's words: the lanes are those of a response without data (R156). -/
theorem accessFault_eq (a : Access) (cause : FaultCause) (s : State) :
    accessFault a cause s = respond a.master .fault (noData a.kind) (offer (.accessFault cause a.master a.addr) s) := by
  rw [accessFault, respondFault, noData_eq]

/-- A 4-byte read of a listed register completes with its word and changes nothing else (R162). -/
theorem registerAccess_of_read {a : Access} {r : Reg} (hreg : regAt a.addr.toNat = some r) (hkind : a.kind = .read) (s : State) :
    registerAccess a .w4 s = respond a.master .complete (some (readReg r s)) s := by
  simp only [registerAccess, hreg, hkind]

/-- The window refuses an access that is not a 4-byte read, or write where writes are taken, of a listed register (R45, R162). -/
theorem registerAccess_of_refused {a : Access} {w : Width}
    (hrefused : ∀ r, regAt a.addr.toNat = some r → w ≠ .w4 ∨ (a.kind = .write ∧ readOnly r = true)) (s : State) :
    registerAccess a w s = accessFault a .undefinedRegister s := by
  unfold registerAccess
  split
  next r hreg hkind =>
    rcases hrefused r hreg with hw | ⟨hwrite, -⟩
    · exact absurd rfl hw
    · exact absurd (hkind.symm.trans hwrite) (by decide)
  next r hreg hkind =>
    rcases hrefused r hreg with hw | ⟨-, hro⟩
    · exact absurd rfl hw
    · rw [(writeReg_eq_none r a.lanes s).2 hro]
  next => rfl

/-! ### The word at address 0 -/

theorem regAt_zero : regAt (0 : HostAddr).toNat = some .identification :=
  rfl

/-- The part code in bits 15–0 and the revision in bits 23–16, whatever the state (R170). -/
theorem readReg_identification (s : State) : readReg .identification s = 0x00016140#32 :=
  rfl

/-- Address 0 is a multiple of every width (R44). -/
theorem alignedWidth_of_addr_zero {a : Access} {w : Width} (haddr : a.addr = 0) (hcode : widthOf a.widthCode = some w) :
    alignedWidth a = some w :=
  (alignedWidth_eq_some_iff a w).2 ⟨hcode, by rw [haddr]; exact Nat.zero_mod _⟩

/-- Every code but 11 names a width (R158). -/
theorem exists_widthOf_of_ne_three {code : BitVec 2} (h : code ≠ 0b11#2) : ∃ w, widthOf code = some w := by
  simp only [widthOf_eq_some_iff]
  have hcodes : code = 0b00#2 ∨ code = 0b01#2 ∨ code = 0b10#2 := by bv_omega
  rcases hcodes with h0 | h1 | h2
  · exact ⟨.w1, .inl ⟨h0, rfl⟩⟩
  · exact ⟨.w2, .inr (.inl ⟨h1, rfl⟩)⟩
  · exact ⟨.w4, .inr (.inr ⟨h2, rfl⟩)⟩

/-- In RUN, an access at address 0 that names a width is decided by the register window. -/
theorem runAdmission_of_addr_zero {a : Access} {w : Width} {s : State} (hrun : s.phase = .run) (haddr : a.addr = 0)
    (hcode : widthOf a.widthCode = some w) : runAdmission a s = registerAccess a w s :=
  runAdmission_of_window hrun (alignedWidth_of_addr_zero haddr hcode) (by rw [haddr]; decide)

/-- Settles O5: the window lists the identification register at offset 0, its word is a constant, and it takes no write. -/
theorem identificationRegister : Obligations.IdentificationRegister := by
  intro a s haddr
  have hreg : regAt a.addr.toNat = some .identification := by rw [haddr, regAt_zero]
  refine ⟨fun hrun hread hcode => ?_, fun hreset => ?_, fun hrun hwrite hcode => ?_⟩
  · have hwidth : widthOf a.widthCode = some .w4 := by rw [hcode]; rfl
    rw [exec_hostAccess, runAdmission_of_addr_zero hrun haddr hwidth, registerAccess_of_read hreg hread, readReg_identification]
  · rw [exec_hostAccess, runAdmission_of_not_run hreset]
  · obtain ⟨w, hwidth⟩ := exists_widthOf_of_ne_three hcode
    have hrefused : ∀ r, regAt a.addr.toNat = some r → w ≠ .w4 ∨ (a.kind = .write ∧ readOnly r = true) := by
      intro r hr
      obtain rfl : Reg.identification = r := Option.some.inj (hreg.symm.trans hr)
      exact .inr ⟨hwrite, rfl⟩
    rw [exec_hostAccess, runAdmission_of_addr_zero hrun haddr hwidth, registerAccess_of_refused hrefused, accessFault_eq, hwrite,
      noData]

end Sys2Proof.Machine
end

section
/-! The commands of the host port as accesses (sections 3.1, 10.5 and 10.8): each command that a master writes into the register
window is the admission of one access, so that what admission does need be said of accesses alone. -/

-- One theorem at a time: elaborated side by side, the proofs of this text need more memory than its check allows.
set_option Elab.async false

namespace Sys2Proof.Machine

/-! ### The queue of commands -/

theorem exec_choiceEvent (x : Branch) (s : State) : exec (.choiceEvent x) s = .next (choiceEvent x s) := rfl

theorem step_of_empty {s : State} (h : s.pending = []) : step s = .next s := by
  simp only [step, h]

theorem step_of_front {s : State} {c : Instr} {rest : List Instr} (h : s.pending = c :: rest) :
    step s = exec c { s with pending := rest } := by
  simp only [step, h]

/-- Settles O1: the two cases of the queue. -/
theorem stepTakesTheFrontCommand : Obligations.StepTakesTheFrontCommand :=
  ⟨fun _ _ _ h => step_of_front h, fun _ h => step_of_empty h⟩

/-! ### The access behind a command -/

/-- The access that a command of the host port is: the access of HOST_ACCESS, the write of REGISTER_WRITE, the write of the word
of a row of its own (section 10.8); the other commands come from no master. -/
def accessOf : Instr → Option Access
  | .hostAccess a => some a
  | .registerWrite m o code w => some { master := m, kind := .write, addr := o.setWidth 22, widthCode := code, lanes := w }
  | c => (writeOf c).map fun p => regWrite p.1 p.2.1 p.2.2

theorem accessOf_of_writeOf {c : Instr} {m : Master} {o : Nat} {w : Word} (h : writeOf c = some (m, o, w)) :
    accessOf c = some (regWrite m o w) := by
  cases c <;> simp_all [writeOf, accessOf]

theorem regWrite_addr_toNat {o : Nat} (ho : o < 4096) (m : Master) (w : Word) : (regWrite m o w).addr.toNat = o := by
  simp only [regWrite, BitVec.toNat_ofNat]
  omega

/-- The 4-byte write of a listed register is aligned. -/
theorem alignedWidth_regWrite {o : Nat} {r : Reg} (ho : o < 4096) (hreg : regAt o = some r) (m : Master) (w : Word) :
    alignedWidth (regWrite m o w) = some .w4 :=
  (alignedWidth_eq_some_iff _ _).2 ⟨rfl, by rw [regWrite_addr_toNat ho]; exact regAt_aligned hreg⟩

/-- The window carries a write out where the register takes writes, and answers COMPLETE (R45). -/
theorem registerAccess_of_write {a : Access} {r : Reg} {s t : State} (hreg : regAt a.addr.toNat = some r) (hkind : a.kind = .write)
    (heffect : writeReg r a.lanes s = some t) : registerAccess a .w4 s = respond a.master .complete none t := by
  simp only [registerAccess, hreg, hkind, heffect, respondTaken]

/-- A 4-byte write of a register that takes writes is a register command with the register's effect: RETRY in RESET, else the
effect, answered COMPLETE (R43, R45). -/
theorem registerCommand_eq_runAdmission {o : Nat} {r : Reg} {w : Word} {f : State → State} {s : State} (ho : o < 4096)
    (hreg : regAt o = some r) (heffect : writeReg r w s = some (f s)) (m : Master) :
    registerCommand m f s = runAdmission (regWrite m o w) s := by
  by_cases hrun : s.phase = .run
  · have hreg' : regAt (regWrite m o w).addr.toNat = some r := by rw [regWrite_addr_toNat ho, hreg]
    rw [runAdmission_of_window hrun (alignedWidth_regWrite ho hreg m w) (by rw [regWrite_addr_toNat ho]; exact ho),
      registerAccess_of_write hreg' rfl heffect, registerCommand_of_run hrun]
    rfl
  · rw [runAdmission_of_not_run hrun, registerCommand, if_pos hrun]
    rfl

/-! ### The words of the rows -/

theorem wordMaster_ofNat (m : Master) : wordMaster (BitVec.ofNat 32 m.val) = m := by decide +revert

theorem wordBranch_ofNat (x : Branch) (n : Node) : wordBranch (BitVec.ofNat 32 (branchCode x * 256 + n.val)) = x := by
  cases x <;> revert n <;> decide

theorem wordNode_ofNat (x : Branch) (n : Node) : wordNode (BitVec.ofNat 32 (branchCode x * 256 + n.val)) = n := by
  cases x <;> revert n <;> decide

theorem fieldOf_setWidth (code : BitVec 4) : fieldOf (code.setWidth 32) 0 4 = code.toNat := by
  simp only [fieldOf, BitVec.toNat_setWidth, Nat.shiftRight_zero]
  omega

theorem regAt_branchCommand (x : Branch) : regAt (0x200 + 0x40 * branchCode x) = some (.branchCommand x) := by
  cases x <;> rfl

theorem branchCommand_offset_lt (x : Branch) : 0x200 + 0x40 * branchCode x < 4096 := by
  have := branchCode_lt x
  omega

/-- A row of its own is the 4-byte write of its word (section 10.8): its register and the effect of its word, row by row. -/
theorem exec_of_writeOf {c : Instr} {m : Master} {o : Nat} {w : Word} (h : writeOf c = some (m, o, w)) (s : State) :
    exec c s = .next (runAdmission (regWrite m o w) s) := by
  have row : ∀ {r : Reg} (f : State → State), exec c s = .next (registerCommand m f s) → o < 4096 → regAt o = some r →
      writeReg r w s = some (f s) → exec c s = .next (runAdmission (regWrite m o w) s) :=
    fun f hexec ho hreg heffect => hexec.trans (congrArg _ (registerCommand_eq_runAdmission ho hreg heffect m))
  cases c <;> simp only [writeOf, Option.some.injEq, Prod.mk.injEq, reduceCtorEq] at h <;> obtain ⟨rfl, rfl, rfl⟩ := h
  case claimWindowWrite data => exact row (r := .claimWindow) (writeClaimWindow data) rfl (by decide) rfl rfl
  case reservationWindowWrite data => exact row (r := .resWindow) (writeResWindow data) rfl (by decide) rfl rfl
  case attentionEnablesWrite data => exact row (r := .attentionEnables) (writeEnables data) rfl (by decide) rfl rfl
  case abandon target =>
    exact row (r := .abandon) (abandonMaster target) rfl (by decide) rfl (by rw [writeReg, wordMaster_ofNat])
  case probe x n =>
    exact row (r := .probe) (probeNode x n) rfl (by decide) rfl (by rw [writeReg, wordBranch_ofNat, wordNode_ofNat])
  case revive x n =>
    exact row (r := .revive) (reviveNode x n) rfl (by decide) rfl (by rw [writeReg, wordBranch_ofNat, wordNode_ofNat])
  case commandRefusedClear => exact row (r := .commandRefused) (writeCommandRefused 1) rfl (by decide) rfl rfl
  case quiesce x => exact row (quiesceBranch x) rfl (branchCommand_offset_lt x) (regAt_branchCommand x) rfl
  case resume x => exact row (resumeBranch x) rfl (branchCommand_offset_lt x) (regAt_branchCommand x) rfl
  case hold x => exact row (holdBranch x) rfl (branchCommand_offset_lt x) (regAt_branchCommand x) rfl
  case release x => exact row (releaseBranch x) rfl (branchCommand_offset_lt x) (regAt_branchCommand x) rfl
  case pop => exact row (r := .recordCounter) popRecord rfl (by decide) rfl rfl
  case overrunClear => exact row (r := .attentionStatus) (writeAttentionStatus 2) rfl (by decide) rfl rfl
  case quiescedClear flags =>
    exact row (r := .attentionStatus) (writeAttentionStatus (flags.setWidth 32 <<< 4)) rfl (by decide) rfl rfl
  case chipReset => exact row (r := .chipReset) chipResetState rfl (by decide) rfl rfl
  case unknownBranchCommand x code =>
    exact row (branchCommand x code.toNat) rfl (branchCommand_offset_lt x) (regAt_branchCommand x)
      (by rw [writeReg, fieldOf_setWidth])

theorem exec_of_accessOf {c : Instr} {a : Access} (h : accessOf c = some a) (s : State) : exec c s = .next (runAdmission a s) := by
  cases hw : writeOf c with
  | some p =>
    obtain ⟨m, o, w⟩ := p
    rw [accessOf_of_writeOf hw, Option.some.injEq] at h
    rw [exec_of_writeOf hw, h]
  | none =>
    cases c <;> simp_all [accessOf, writeOf]
    case hostAccess => rfl
    case registerWrite => subst h; rfl

/-- Settles O9: both sides are the admission of one access. -/
theorem commandRowsAreTheirRegisterWrites : Obligations.CommandRowsAreTheirRegisterWrites := by
  refine ⟨fun c m o w s h => ?_, fun m o code w s => ?_⟩
  · rw [exec_of_writeOf h, exec_hostAccess]
  · rw [exec_registerWrite, exec_hostAccess, BitVec.ofNat_toNat]

theorem exists_accessOf_of_portOf {c : Instr} {m : Master} {k : Kind} (h : portOf c = some (m, k)) :
    ∃ a, accessOf c = some a ∧ a.master = m ∧ a.kind = k := by
  cases c <;> simp only [portOf, Option.some.injEq, Prod.mk.injEq, reduceCtorEq] at h <;> exact ⟨_, rfl, h⟩

/-- Settles O3: every command of a master is an access, and step 1 decides it. -/
theorem accessInResetIsRetried : Obligations.AccessInResetIsRetried := by
  intro c m k s hport hreset
  obtain ⟨a, ha, rfl, rfl⟩ := exists_accessOf_of_portOf hport
  rw [exec_of_accessOf ha, runAdmission_of_not_run hreset]

/-- Settles O6: the register window's own answers. -/
theorem Settled.registerAccess : Obligations.RegisterAccess := by
  intro a w s hrun hwidth hwindow
  rw [exec_hostAccess, runAdmission_of_window hrun hwidth hwindow]
  refine ⟨fun r hreg hw hread => ?_, fun hrefused => ?_⟩
  · subst hw
    rw [registerAccess_of_read hreg hread]
  · rw [registerAccess_of_refused hrefused, accessFault_eq]

end Sys2Proof.Machine
end

section
/-! What one event can do, said once. A branch's column changes by a `Alone` or an `Opens` move, the state by a `Part`, and an event is a
chain of parts, one of the two flag writes, a RELEASE, a reset or a tick. A part carries the set of branches whose drains its event still
looks at (R139): work ends only on such a branch, and `Part.settle` takes a branch out of the set. -/

-- One theorem at a time: elaborated side by side, the proofs of this text need more memory than its check allows.
set_option Elab.async false

namespace Sys2Proof.Machine

/-! ### Moves of one column -/

/-- Two transactions of one source and one node: what sends, holds and resends keep. -/
def SameWork (tx tx' : Txn) : Prop := tx'.source = tx.source ∧ tx'.node = tx.node

/-- No transaction for the node is parked (section 5.2). -/
def NotParked (u : BranchUnit) (n : Node) : Prop := ∀ p, u.park = some p → p.tx.node ≠ n

/-- Moves of a column that change no entry and cannot be the last condition of a drain. -/
inductive Alone (u : BranchUnit) : BranchUnit → Prop
  | node (n : Node) (f : NodeRecord → NodeRecord)
      (counts : ∀ r : NodeRecord, r.failures ≤ 15 → r.dropped ≤ 255 → (f r).failures ≤ 15 ∧ (f r).dropped ≤ 255)
      (offline : n ≠ 0 → (f (nodeOf u n)).state = .offline → (nodeOf u n).state = .offline) : Alone u (onNode n f u)
  | post (r : PostedRecord) (room : u.queue.length < 8) (active : u.ctrl = .active) : Alone u { u with queue := u.queue ++ [r] }
  | settings (t : BranchSettings) (ranges : settingsInRange u.settings → settingsInRange t) : Alone u { u with settings := t }
  | probe (n : Node) (node : n ≠ 0) (free : u.ctrl ≠ .held) : Alone u { u with probeSet := probeJoin n u.probeSet }
  | resume (paused : u.ctrl = .draining ∨ u.ctrl = .quiesced) : Alone u { u with ctrl := .active }
  | startParked (tx : Txn) (rate : LineRate) (may : MayChoose u) (due : IsK u tx) :
      Alone u { u with park := none, engine := .transmit tx rate }
  | startProbe (tx : Txn) (rate : LineRate) (may : MayChoose u) (source : tx.source = .probeSet ∨ tx.source = .resync)
      (apart : NotParked u tx.node) : Alone u { u with probeDeferral := 0, engine := .transmit tx rate }
  | startPosted (tx : Txn) (rate : LineRate) (may : MayChoose u) (source : tx.source = .posted) (idle : u.headInFlight = false)
      (head : u.queue ≠ []) (apart : NotParked u tx.node) :
      Alone u { countIssue (min Config.postedRunMax (u.postedRun + 1)) u with headInFlight := true, engine := .transmit tx rate }
  | await (tx : Txn) (rate : LineRate) (sent : u.engine = .transmit tx rate) :
      Alone u { u with engine := .await tx (u.settings.replyWindow * 10) }
  | receiver (r : Receiver) : Alone u { u with receiver := r }
  | counts (q : List PostedRecord) (fill : q.length = u.queue.length) : Alone u { u with queue := q }
  | send (tx tx' : Txn) (n : Nat) (rate : LineRate) (current : u.engine = .await tx n ∨ u.engine = .backoff tx n)
      (same : SameWork tx tx') : Alone u { u with engine := .transmit tx' rate }
  | park (tx tx' : Txn) (n : Nat) (current : u.engine = .await tx n) (same : SameWork tx tx') (free : u.park = none) :
      Alone u { u with engine := .idle, park := some { tx := tx', delay := .waiting (u.settings.holdDelay * 10) } }
  | backoff (tx tx' : Txn) (n : Nat) (current : u.engine = .await tx n) (same : SameWork tx tx') :
      Alone u { u with engine := .backoff tx' (u.settings.holdDelay * 10) }
  | due (tx : Txn) (n : Nat) (waits : u.park = some { tx := tx, delay := .waiting n }) :
      Alone u { u with park := some { tx := tx, delay := .due } }

/-- Moves of a column that change no entry and may be the last condition of a drain. -/
inductive Opens (u : BranchUnit) : BranchUnit → Prop
  | resync (tx : Txn) (current : currentTxn u.engine = some tx) (source : tx.source = .resync) : Opens u { u with engine := .idle }
  | probe (tx : Txn) (n : Node) (current : currentTxn u.engine = some tx) (source : tx.source = .probeSet) :
      Opens u { u with engine := .idle, probeSet := probeLeave n u.probeSet }
  | draining (active : u.ctrl = .active) : Opens u { u with ctrl := .draining }

/-! ### Parts of an event -/

/-- An entry is handed to the engine of its branch (R89): ISSUED, and its transaction sent. -/
def startEntry (x : Branch) (k : Slot) (tx : Txn) (rate : LineRate) (s : State) : State :=
  onEntries (fun e => if e.slot = k then { e with state := .issued false } else e)
    (onUnit x (fun u => { countIssue 0 u with engine := .transmit tx rate }) s)

/-- The column and the entries of a branch that enters HELD, and the slots this frees (R10, R142). -/
def holdColumn (x : Branch) (s : State) : State :=
  freeSlotsWhere (freedByHeld x)
    (onEntries (heldEntry x (unitOf s x).queue.length (claimStart s)) (onUnit x heldUnit s))

/-- The engine of branch `x` has no transaction any more. -/
def disengage (x : Branch) (s : State) : State := onUnit x (fun u => { u with engine := .idle }) s

/-- A node turns OFFLINE: its record, and the release of its PENDING entries (R9, R124). -/
def turnNode (x : Branch) (n : Node) (op : Op) (s : State) : State :=
  onEntries (releasedByTurn x n (claimStart s))
    (onUnit x (onNode n (recordSilent op (unitOf s x).settings.offlineThreshold)) s)

/-- The parts that events are made of, from the branches `D` looked at and a state to the next ones. -/
inductive Part : Finset Branch × State → Finset Branch × State → Prop
  | port {D : Finset Branch} {s : State} (response : Option Response) (phase : Phase) (enables : Enables) :
      Part (D, s) (D, { s with response := response, phase := phase, enables := enables })
  | knobs {D : Finset Branch} {s : State} (divisor : Nat) (quotas : PerMaster Nat) (apertures : Vector Aperture 16)
      (ranges : SettingsInRange s → SettingsInRange { s with divisor := divisor, quotas := quotas, apertures := apertures }) :
      Part (D, s) (D, { s with divisor := divisor, quotas := quotas, apertures := apertures })
  | refuse {D : Finset Branch} {s : State} : Part (D, s) (D, refuseCommand s)
  | offer {D : Finset Branch} {s : State} (body : RecordBody) : Part (D, s) (D, offer body s)
  | pop {D : Finset Branch} {s : State} : Part (D, s) (D, popRecord s)
  | free {D : Finset Branch} {s : State} (e : Entry) (live : e ∈ s.entries) (unissued : isIssued e = false)
      (looked : isPending e = true → e.branch ∈ D) : Part (D, s) (D, freeSlot e.slot s)
  | unwait {D : Finset Branch} {s : State} (m : Master) : Part (D, s) (D, { s with waiting := s.waiting.filter (fun k => k ≠ m) })
  | endReservation {D : Finset Branch} {s : State} (m : Master) : Part (D, s) (D, endReservation m s)
  | create {D : Finset Branch} {s : State} (a : Access) (w : Width) (p : Aperture) (k : Slot)
      (fresh : ∀ e ∈ s.entries, ¬ Matches a w e) (node : p.node ≠ 0) (answers : nodeIsOffline (unitOf s p.branch) p.node = false)
      (active : (unitOf s p.branch).ctrl = .active)
      (slot : (∃ r, s.reservations.get a.master = some r ∧ r.slot = k) ∨ (s.reservations.get a.master = none ∧ OpenSlot s k)) :
      Part (D, s) (D, { s with
        entries := s.entries ++ [newEntry a w p k s], reservations := s.reservations.set a.master none })
  | wait {D : Finset Branch} {s : State} (m : Master) (window : s.resWindow ≠ 0) (fresh : m ∉ s.waiting)
      (unreserved : s.reservations.get m = none) (closed : ∀ k, ¬ OpenSlot s k) :
      Part (D, s) (D, { s with waiting := s.waiting ++ [m] })
  | claimWindow {D : Finset Branch} {s : State} (w : Word) : Part (D, s) (D, writeClaimWindow w s)
  | resWindow {D : Finset Branch} {s : State} (w : Word) : Part (D, s) (D, writeResWindow w s)
  | mark {D : Finset Branch} {s : State} (m : Master) : Part (D, s) (D, onEntries (markAbandoned m) s)
  | alone {D : Finset Branch} {s : State} (x : Branch) (f : BranchUnit → BranchUnit) (h : Alone (unitOf s x) (f (unitOf s x))) :
      Part (D, s) (D, onUnit x f s)
  | opens {D : Finset Branch} {s : State} (x : Branch) (f : BranchUnit → BranchUnit) (h : Opens (unitOf s x) (f (unitOf s x)))
      (looked : x ∈ D) : Part (D, s) (D, onUnit x f s)
  | depart {D : Finset Branch} {s : State} (x : Branch) (idle : (unitOf s x).headInFlight = false) (looked : x ∈ D) :
      Part (D, s) (D, departHead x s)
  | entry {D : Finset Branch} {s : State} (x : Branch) (e : Entry) (tx : Txn) (rate : LineRate) (may : MayChoose (unitOf s x))
      (live : e ∈ s.entries) (pending : isPending e = true) (branch : e.branch = x) (source : tx.source = .slot e.slot)
      (apart : NotParked (unitOf s x) tx.node) : Part (D, s) (D, startEntry x e.slot tx rate s)
  | finishPosted {D : Finset Branch} {s : State} (x : Branch) (tx : Txn) (current : currentTxn (unitOf s x).engine = some tx)
      (source : tx.source = .posted) (looked : x ∈ D) : Part (D, s) (D, departHead x (disengage x s))
  | finishSlot {D : Finset Branch} {s : State} (x : Branch) (tx : Txn) (k : Slot) (en : TxEnd)
      (current : currentTxn (unitOf s x).engine = some tx) (source : tx.source = .slot k) (looked : x ∈ D) :
      Part (D, s) (D, endDeferred k en (disengage x s))
  | turn {D : Finset Branch} {s : State} (x : Branch) (n : Node) (op : Op) (node : n ≠ 0) (looked : x ∈ D) :
      Part (D, s) (D, turnNode x n op s)
  | held {D : Finset Branch} {s : State} (x : Branch) (free : (unitOf s x).ctrl ≠ .held) : Part (D, s) (D, holdColumn x s)
  | look {D : Finset Branch} {s : State} (x : Branch) : Part (D, s) (insert x D, s)
  | settle {D : Finset Branch} {s : State} (x : Branch) : Part (D, s) (D.erase x, completeDrain x s)

/-- A chain of parts. -/
abbrev Parts (D : Finset Branch) (s : State) (E : Finset Branch) (t : State) : Prop := Relation.ReflTransGen Part (D, s) (E, t)

/-- What every part keeps, a chain of parts keeps. -/
theorem Parts.keep {P : Finset Branch → State → Prop} (parts : ∀ {D s E t}, Part (D, s) (E, t) → P D s → P E t)
    {D E : Finset Branch} {s t : State} (h : Parts D s E t) (hs : P D s) : P E t := by
  suffices hq : ∀ q, Relation.ReflTransGen Part (D, s) q → P q.1 q.2 from hq _ h
  intro q hq
  induction hq with
  | refl => exact hs
  | tail _ part ih => exact parts part ih

/-! ### Short chains -/

section Chains
variable {D : Finset Branch} {s t : State}

theorem parts_respond (m : Master) (code : ResponseCode) (lanes : Option Word) : Parts D s D (respond m code lanes s) :=
  .single (.port (some { master := m, code := code, lanes := lanes }) s.phase s.enables)

theorem Parts.respond {E : Finset Branch} (h : Parts D s E t) (m : Master) (code : ResponseCode) (lanes : Option Word) :
    Parts D s E (respond m code lanes t) :=
  h.trans (parts_respond m code lanes)

theorem parts_accessFault (a : Access) (cause : FaultCause) : Parts D s D (accessFault a cause s) :=
  Parts.respond (.single (.offer _)) _ _ _

theorem parts_respondFailed (a : Access) (w : Width) (mode : ErrorMode) : Parts D s D (respondFailed a w mode s) := by
  rw [respondFailed_eq]
  exact parts_respond _ _ _

theorem parts_alone {x : Branch} {f : BranchUnit → BranchUnit} (h : Alone (unitOf s x) (f (unitOf s x))) :
    Parts D s D (onUnit x f s) :=
  .single (.alone x f h)

/-- A chain on the changed column follows the move that changed it. -/
theorem Parts.alone {x : Branch} {E : Finset Branch} {f : BranchUnit → BranchUnit} (h : Parts D s E t)
    (hf : Alone (unitOf t x) (f (unitOf t x))) : Parts D s E (onUnit x f t) :=
  h.trans (parts_alone hf)

end Chains

/-! ### The end of a transaction as a chain of parts -/

section End
variable {D : Finset Branch} {x : Branch} {s : State}

/-- A record that a valid reply brings: ONLINE with failures 0 is in range and not OFFLINE. -/
theorem parts_nodeReplied (n : Node) {f : NodeRecord → NodeRecord}
    (hf : ∀ r, (f r).failures = r.failures ∧ (f r).dropped = r.dropped ∧ (f r).state = r.state) :
    Parts D s D (nodeReplied x n f s) := by
  have hnode : Parts D s D (onUnit x (onNode n (fun r => f (recordReplied r))) s) := by
    refine parts_alone (.node n _ (fun r _ hd => ?_) fun _ ho => ?_)
    · obtain ⟨h1, h2, -⟩ := hf (recordReplied r)
      exact ⟨by rw [h1]; exact Nat.zero_le _, by rw [h2]; exact hd⟩
    · obtain ⟨-, -, h3⟩ := hf (recordReplied (nodeOf (unitOf s x) n))
      rw [h3] at ho
      cases ho
  simp only [nodeReplied]
  split
  · exact hnode.trans (.single (.offer _))
  · exact hnode

theorem onEntries_offer (f : Entry → Entry) (b : RecordBody) (t : State) : onEntries f (offer b t) = offer b (onEntries f t) := by
  by_cases h : t.records.length < Config.recordDepth <;> simp [offer, onEntries, h]

theorem recordSilent_failures (op : Op) (threshold : Nat) (r : NodeRecord) : (recordSilent op threshold r).failures ≤ 15 :=
  Nat.min_le_left _ _

theorem nodeIsOffline_iff {u : BranchUnit} {n : Node} (hn : n ≠ 0) : nodeIsOffline u n = true ↔ (nodeOf u n).state = .offline := by
  simp [nodeIsOffline, hn]

/-- Silence counts a failure; only at the threshold does the node turn OFFLINE (R124). -/
theorem parts_nodeSilent {tx : Txn} (hn : tx.node ≠ 0) (hD : x ∈ D) : Parts D s D (nodeSilent x tx s) := by
  simp only [nodeSilent]
  split
  next hturn =>
    rw [onEntries_offer]
    exact .tail (.single (.turn x tx.node tx.op hn hD)) (.offer _)
  next hturn =>
    refine parts_alone (.node _ _ (fun r _ hd => ⟨recordSilent_failures _ _ r, hd⟩) fun _ ho => ?_)
    by_contra hnot
    have hlimit : (unitOf s x).settings.offlineThreshold ≤ min Config.failuresMax ((nodeOf (unitOf s x) tx.node).failures + 1) := by
      by_contra hlow
      simp [recordSilent, hnot, hlow] at ho
    rw [turnsOffline, Bool.and_eq_true, Bool.not_eq_true', ← Bool.not_eq_true, nodeIsOffline_iff hn, decide_eq_true_eq] at hturn
    exact hturn ⟨hnot, hlimit⟩

theorem parts_endNode (tx : Txn) (en : TxEnd) (hD : x ∈ D) : Parts D s D (endNode x tx en s) := by
  unfold endNode
  split
  · exact .refl
  next hn =>
    split
    · exact parts_nodeSilent hn hD
    · exact parts_nodeReplied _ fun r => ⟨rfl, rfl, rfl⟩

/-- The source served once the engine is idle, source by source (R111). -/
theorem parts_endSource {tx tx0 : Txn} (hcur : currentTxn (unitOf s x).engine = some tx0) (hsame : SameWork tx0 tx) (en : TxEnd)
    (hD : x ∈ D) : Parts D s D (endSource x tx en (disengage x s)) := by
  obtain ⟨hsource, -⟩ := hsame
  unfold endSource
  split <;> rename_i h <;> rw [hsource] at h
  · have hdepart : Parts D s D (departHead x (disengage x s)) := .single (.finishPosted x tx0 hcur h hD)
    unfold endPosted
    split
    · exact hdepart.tail (.offer _)
    · exact hdepart
  · exact .single (.finishSlot x tx0 _ en hcur h hD)
  · rw [disengage, onUnit_onUnit]
    exact .single (.opens x _ (.probe tx0 _ hcur h) hD)
  · exact .single (.opens x _ (.resync tx0 hcur h) hD)

theorem parts_dropReception : Parts D s D (onUnit x dropReception s) :=
  parts_alone (by rw [dropReception_eq]; exact .receiver _)

@[simp] theorem dropReception_engine (u : BranchUnit) : (dropReception u).engine = u.engine := by rw [dropReception_eq]
@[simp] theorem dropReception_park (u : BranchUnit) : (dropReception u).park = u.park := by rw [dropReception_eq]

theorem parts_endTxn {tx tx0 : Txn} (hcur : currentTxn (unitOf s x).engine = some tx0) (hsame : SameWork tx0 tx) (en : TxEnd) :
    Parts ∅ s ∅ (endTxn x tx en s) := by
  have hx : x ∈ insert x (∅ : Finset Branch) := Finset.mem_insert_self x ∅
  have hidle : onUnit x (fun u => { dropReception u with engine := .idle }) s = disengage x (onUnit x dropReception s) := by
    rw [disengage, onUnit_onUnit]
  have hcur' : currentTxn (unitOf (onUnit x dropReception s) x).engine = some tx0 := by simpa using hcur
  have hsettled : (insert x (∅ : Finset Branch)).erase x = ∅ := by simp
  rw [endTxn, hidle]
  refine .head (.look x) (parts_dropReception.trans ((parts_endSource hcur' hsame en hx).trans ((parts_endNode tx en hx).tail ?_)))
  simpa only [hsettled] using Part.settle (D := insert x ∅) x

end End

/-! ### Silence, replies and the line -/

section Link
variable {x : Branch} {tx : Txn} {n : Nat} {s : State}

theorem length_queueFollowing (tx : Txn) (q : List PostedRecord) : (queueFollowing tx q).length = q.length := by
  cases q <;> cases hs : tx.source <;> simp [queueFollowing, hs]

theorem parts_copyCounts {D : Finset Branch} (tx : Txn) : Parts D s D (onUnit x (copyCounts tx) s) :=
  parts_alone (by rw [copyCounts_eq]; exact .counts _ (length_queueFollowing _ _))

@[simp] theorem copyCounts_engine (tx : Txn) (u : BranchUnit) : (copyCounts tx u).engine = u.engine := by rw [copyCounts_eq]
@[simp] theorem copyCounts_park (tx : Txn) (u : BranchUnit) : (copyCounts tx u).park = u.park := by rw [copyCounts_eq]

theorem currentTxn_of_await (h : (unitOf s x).engine = .await tx n) : currentTxn (unitOf s x).engine = some tx := by rw [h]; rfl

theorem SameWork.refl (tx : Txn) : SameWork tx tx := ⟨rfl, rfl⟩

/-- The counts of a transaction copied to the head and its reception dropped, before the engine moves on. -/
theorem parts_counted {D : Finset Branch} (tx : Txn) : Parts D s D (onUnit x (fun u => copyCounts tx (dropReception u)) s) := by
  rw [← onUnit_onUnit]
  exact parts_dropReception.trans (parts_copyCounts tx)

theorem parts_silence (h : (unitOf s x).engine = .await tx n) : Parts ∅ s ∅ (silence x tx s) := by
  unfold silence
  split
  · refine (parts_counted _).alone ?_
    exact .send tx _ n _ (.inl (by simpa using h)) ⟨rfl, rfl⟩
  · exact parts_endTxn (currentTxn_of_await h) (.refl tx) .noReply

theorem parts_holdReply (h : (unitOf s x).engine = .await tx n) : Parts ∅ s ∅ (holdReply x tx s) := by
  have hsame : SameWork tx { tx with holdsUsed := tx.holdsUsed + 1 } := ⟨rfl, rfl⟩
  have hid : ∀ r : NodeRecord, (id r).failures = r.failures ∧ (id r).dropped = r.dropped ∧ (id r).state = r.state :=
    fun _ => ⟨rfl, rfl, rfl⟩
  simp only [holdReply]
  split
  · exact (parts_copyCounts _).trans (parts_endTxn (tx0 := tx) (by simpa using currentTxn_of_await h) hsame .busyLimit)
  · split
    next hpark =>
      refine Relation.ReflTransGen.trans ?_ (parts_nodeReplied tx.node hid)
      have hmove := (parts_counted (D := ∅) (s := s) (x := x) { tx with holdsUsed := tx.holdsUsed + 1 }).alone (x := x)
        (f := fun u => { u with engine := .idle, park := some { tx := { tx with holdsUsed := tx.holdsUsed + 1 }, delay := .waiting (u.settings.holdDelay * 10) } })
        (.park tx _ n (by simpa using h) hsame (by simpa using hpark))
      rw [onUnit_onUnit] at hmove
      convert hmove using 1
      simp [onUnit, unitOf, Config.linkUnit]
    next hpark =>
      refine Relation.ReflTransGen.trans ?_ (parts_nodeReplied tx.node hid)
      have hmove := (parts_counted (D := ∅) (s := s) (x := x) { tx with holdsUsed := tx.holdsUsed + 1 }).alone (x := x)
        (f := fun u => { u with engine := .backoff { tx with holdsUsed := tx.holdsUsed + 1 } (u.settings.holdDelay * 10) })
        (.backoff tx _ n (by simpa using h) hsame)
      rw [onUnit_onUnit] at hmove
      convert hmove using 1
      simp [onUnit, unitOf, Config.linkUnit]

theorem parts_takeReply (h : (unitOf s x).engine = .await tx n) (r : Option Reply) : Parts ∅ s ∅ (takeReply x tx r s) := by
  have hend := fun en => parts_endTxn (currentTxn_of_await h) (.refl tx) en
  unfold takeReply
  split
  · exact parts_silence h
  · exact parts_holdReply h
  all_goals exact hend _

theorem parts_receiver {D : Finset Branch} (r : Receiver) : Parts D s D (onUnit x (fun u => { u with receiver := r }) s) :=
  parts_alone (.receiver r)

theorem parts_receiveFrame (f : RxFrame) : Parts ∅ s ∅ (receiveFrame x f s) := by
  unfold receiveFrame
  split
  next rate tx n _ hengine => exact (parts_receiver .clear).trans (parts_takeReply (n := n) (by simpa using hengine) _)
  next => exact parts_receiver .clear
  next =>
    split
    · exact parts_receiver .clear
    · exact .refl
  next => exact .refl

theorem parts_receiveStart : Parts ∅ s ∅ (receiveStart x s) := by
  unfold receiveStart
  split
  · exact .refl
  · exact parts_alone (.receiver _)

theorem parts_finishSend : Parts ∅ s ∅ (finishSend x s) := by
  unfold finishSend
  split
  next tx rate hengine =>
    split
    · exact parts_endTxn (tx0 := tx) (by rw [hengine]; rfl) (.refl tx) _
    · exact parts_alone (.await tx rate hengine)
  next => exact .refl

end Link

end Sys2Proof.Machine
end

section
/-! The remaining commands as chains of parts: the choice event, the expiries, admission and the register window; and the inversion of a
whole step (`exec_event`). -/

-- One theorem at a time: elaborated side by side, the proofs of this text need more memory than its check allows.
set_option Elab.async false

namespace Sys2Proof.Machine

/-! ### The choice event -/

section Choice
variable {D : Finset Branch} {x : Branch} {s : State}

@[simp] theorem unitOf_departHead (x y : Branch) (s : State) : unitOf (departHead x s) y =
    if y = x then { unitOf s y with queue := (unitOf s y).queue.tail, headInFlight := false } else unitOf s y := by
  rw [departHead, unitOf_onEntries, unitOf_onUnit]

/-- The drops of OFFLINE heads: departures on a branch whose head is not in flight. -/
theorem parts_dropHeads (hD : x ∈ D) (run : List PostedRecord) (hidle : (unitOf s x).headInFlight = false) :
    Parts D s D (run.foldl (fun t r => dropHead x r.node t) s) := by
  induction run generalizing s with
  | nil => exact .refl
  | cons r run ih =>
    have hcount : Parts D (departHead x s) D (dropHead x r.node s) :=
      parts_alone (.node r.node countDropped (fun _ hf _ => ⟨hf, Nat.min_le_left _ _⟩) fun _ ho => ho)
    exact .head (.depart x hidle hD) (hcount.trans (ih (by simp [dropHead])))

theorem parts_dropOfflineHeads (hD : x ∈ D) : Parts D s D (dropOfflineHeads x s) := by
  unfold dropOfflineHeads
  cases hidle : (unitOf s x).headInFlight
  · exact parts_dropHeads hD _ hidle
  · rw [offlineRun, if_pos hidle]
    exact .refl

/-- The drops touch neither the engine, the park slot nor the branch state. -/
theorem unitOf_foldl_dropHead (run : List PostedRecord) (x : Branch) (s : State) :
    (unitOf (run.foldl (fun t r => dropHead x r.node t) s) x).engine = (unitOf s x).engine ∧
    (unitOf (run.foldl (fun t r => dropHead x r.node t) s) x).ctrl = (unitOf s x).ctrl := by
  induction run generalizing s with
  | nil => exact ⟨rfl, rfl⟩
  | cons r run ih =>
    obtain ⟨h1, h2⟩ := ih (s := dropHead x r.node s)
    exact ⟨h1.trans (by simp [dropHead]), h2.trans (by simp [dropHead])⟩

theorem mayChoose_dropOfflineHeads (h : MayChoose (unitOf s x)) : MayChoose (unitOf (dropOfflineHeads x s) x) := by
  obtain ⟨h1, h2⟩ := unitOf_foldl_dropHead (offlineRun (unitOf s x)) x s
  rw [MayChoose, dropOfflineHeads, h1, h2]
  exact h

theorem issueResync_eq (x : Branch) (n : Node) (s : State) : issueResync x n s =
    onUnit x (fun u => { u with probeDeferral := 0, engine := .transmit (probeTxn .resync n) (lineRate s x) }) s := by
  rw [issueResync, startSend, onUnit_onUnit, lineRate_onUnit _ _ _ rfl]

theorem parts_issueResync {n : Node} (hmay : MayChoose (unitOf s x)) (hapart : NotParked (unitOf s x) n) :
    Parts D s D (issueResync x n s) := by
  rw [issueResync_eq]
  exact parts_alone (.startProbe _ _ hmay (.inr rfl) hapart)

theorem choose_eq_or (x : Branch) (s : State) :
    (∃ tx, choose x s = .parked tx ∧ candidateK (unitOf s x) = some tx) ∨
    (∃ n, choose x s = .probe n ∧ candidateQ (unitOf s x) = some n) ∨
    (∃ e, choose x s = .deferred e ∧ candidateD x s = some e) ∨
    (∃ r, choose x s = .posted r ∧ candidateP (unitOf s x) = some r) ∨ choose x s = .nothing := by
  cases hk : candidateK (unitOf s x) <;> cases hp : candidateP (unitOf s x) <;> cases hd : candidateD x s <;>
    cases hq : candidateQ (unitOf s x) <;> simp only [choose, hk, hp, hd, hq] <;> split_ifs <;> simp

/-- What is handed over is one of the candidates of section 5.2, with no transaction parked for its node. -/
theorem parts_issue (hmay : MayChoose (unitOf s x)) : Parts D s D (issue x (choose x s) s) := by
  rcases choose_eq_or x s with ⟨tx, hc, hk⟩ | ⟨n, hc, hq⟩ | ⟨e, hc, hd⟩ | ⟨r, hc, hp⟩ | hc <;> rw [hc]
  · simp only [issue, startSend, onUnit_onUnit]
    exact parts_alone (.startParked tx _ hmay ((candidateK_iff _ _).1 hk))
  · simp only [issue, startSend, onUnit_onUnit]
    have hapart : parkedNode (unitOf s x) ≠ some n := by simpa using List.find?_some hq
    exact parts_alone (.startProbe _ _ hmay (.inl rfl) ((parkedNode_ne_iff _ _).1 hapart))
  · obtain ⟨⟨hpending, hbranch, -, hapart⟩, -⟩ := (candidateD_iff x s e).1 hd
    simp only [issue]
    split
    · exact parts_issueResync hmay hapart
    · simp only [startSend, ← onEntries_onUnit, onUnit_onUnit]
      exact .single (.entry x e _ _ hmay (List.mem_of_find?_eq_some hd) ((isPending_iff e).2 hpending) hbranch rfl hapart)
  · obtain ⟨hhead, hidle, hapart⟩ := (candidateP_iff _ _).1 hp
    simp only [issue]
    split
    · exact parts_issueResync hmay hapart
    · simp only [startSend, onUnit_onUnit]
      refine parts_alone (.startPosted _ _ hmay rfl hidle (fun hnil => ?_) hapart)
      rw [hnil] at hhead
      cases hhead
  · exact .refl

theorem parts_choiceEvent : Parts ∅ s ∅ (choiceEvent x s) := by
  unfold choiceEvent
  split
  next hmay =>
    have hmay' := mayChoose_dropOfflineHeads ((mayChoose_iff _).1 hmay)
    have hsettled : (insert x (∅ : Finset Branch)).erase x = ∅ := by simp
    refine .head (.look x) ((parts_dropOfflineHeads (Finset.mem_insert_self x ∅)).trans ((parts_issue hmay').tail ?_))
    simpa only [hsettled] using Part.settle (D := insert x ∅) x
  next => exact .refl

end Choice

/-! ### Expiries -/

section Expiries
variable {s : State}

theorem mem_of_entryAt {k : Slot} {e : Entry} (h : entryAt s k = some e) : e ∈ s.entries ∧ e.slot = k :=
  ⟨List.mem_of_find?_eq_some h, by simpa using List.find?_some h⟩

theorem not_pending_of_ready {e : Entry} (h : isReady e = true) : isIssued e = false ∧ isPending e = false := by
  obtain ⟨o, d, c, hs⟩ := (isReady_iff e).1 h
  simp [isIssued, isPending, hs]

theorem parts_freeReady {D : Finset Branch} {e : Entry} (he : e ∈ s.entries) (h : isReady e = true) :
    Parts D s D (freeSlot e.slot s) := by
  obtain ⟨hi, hp⟩ := not_pending_of_ready h
  exact .single (.free e he hi fun h => absurd h (by rw [hp]; exact Bool.false_ne_true))

theorem parts_expireClaim (k : Slot) : Parts ∅ s ∅ (expireClaim k s) := by
  unfold expireClaim
  split
  · exact .refl
  next e hat =>
    obtain ⟨he, rfl⟩ := mem_of_entryAt hat
    split
    next o d n hs =>
      split
      · exact (parts_freeReady he ((isReady_iff e).2 ⟨_, _, _, hs⟩)).tail (.offer _)
      · exact .refl
    next => exact .refl

theorem parts_expireReservation (m : Master) : Parts ∅ s ∅ (expireReservation m s) := by
  unfold expireReservation
  split
  · split
    · exact .single (.endReservation m)
    · exact .refl
  · exact .refl

theorem parts_expireReplyWindow (x : Branch) : Parts ∅ s ∅ (expireReplyWindow x s) := by
  unfold expireReplyWindow
  split
  next tx n hengine =>
    split
    · exact parts_silence hengine
    · exact .refl
  next => exact .refl

theorem parts_expireParked (x : Branch) : Parts ∅ s ∅ (expireParked x s) := by
  unfold expireParked
  split
  next tx n hpark =>
    split
    · exact parts_alone (.due tx n hpark)
    · exact .refl
  next => exact .refl

theorem parts_expireBackoff (x : Branch) : Parts ∅ s ∅ (expireBackoff x s) := by
  unfold expireBackoff
  split
  next tx n hengine =>
    split
    · exact parts_alone (.send tx tx n _ (.inr hengine) (.refl tx))
    · exact .refl
  next => exact .refl

theorem parts_expire (t : Timer) : Parts ∅ s ∅ (expire t s) := by
  cases t with
  | claim k => exact parts_expireClaim k
  | reservation m => exact parts_expireReservation m
  | replyWindow x => exact parts_expireReplyWindow x
  | parkedHold x => exact parts_expireParked x
  | backoffHold x => exact parts_expireBackoff x

theorem parts_expiries (due : List Timer) : Parts ∅ s ∅ (due.foldl (fun u t => expire t u) s) := by
  induction due generalizing s with
  | nil => exact .refl
  | cons t due ih => exact (parts_expire t).trans ih

end Expiries

/-! ### Settings -/

section Settings
variable {D : Finset Branch} {s : State}

theorem fieldOf_lt (w : Word) (lo len : Nat) : fieldOf w lo len < 2 ^ len := Nat.mod_lt _ (Nat.two_pow_pos len)

theorem clampField_range (v : Nat) : 4 ≤ clampField 4 50 v ∧ clampField 4 50 v ≤ 50 := by
  unfold clampField
  omega

theorem parts_writeDivisor (w : Word) : Parts D s D (writeDivisor w s) := by
  refine .single (.knobs (clampField 4 50 (fieldOf w 0 6)) s.quotas s.apertures ?_)
  rintro ⟨hq, hc, hr, -, -, ha, hu⟩
  obtain ⟨h4, h50⟩ := clampField_range (fieldOf w 0 6)
  exact ⟨hq, hc, hr, h4, h50, ha, hu⟩

theorem quotaOf_le (v : Nat) : quotaOf v ≤ 12 := Nat.min_le_left _ _

theorem parts_writeQuotas (w : Word) : Parts D s D (writeQuotas w s) := by
  refine .single (.knobs s.divisor (writeQuotas w s).quotas s.apertures ?_)
  rintro ⟨-, hc, hr, h4, h50, ha, hu⟩
  refine ⟨fun m => ?_, hc, hr, h4, h50, ha, hu⟩
  fin_cases m <;> exact quotaOf_le _

theorem parts_onAperture (n : Fin 16) {f : Aperture → Aperture} (hf : ∀ a, a.sizeCode ≤ 8 → (f a).sizeCode ≤ 8) :
    Parts D s D (onAperture n f s) := by
  refine .single (.knobs s.divisor s.quotas (onAperture n f s).apertures ?_)
  rintro ⟨hq, hc, hr, h4, h50, ha, hu⟩
  refine ⟨hq, hc, hr, h4, h50, fun k => ?_, hu⟩
  simp only [onAperture, Vector.getElem_set]
  split
  · exact hf _ (ha n)
  · exact ha k

theorem settingsInRange_withRates (w : Word) {t : BranchSettings} (h : settingsInRange t) : settingsInRange (withRates w t) := by
  have h1 := fieldOf_lt w 8 4
  have h2 := fieldOf_lt w 16 4
  obtain ⟨-, -, -, -, hrest⟩ := h
  refine ⟨Nat.le_max_left _ _, ?_, Nat.le_max_left _ _, ?_, hrest⟩ <;> simp only [withRates] <;> omega

theorem settingsInRange_withLink (w : Word) {t : BranchSettings} (h : settingsInRange t) : settingsInRange (withLink w t) := by
  have h1 := fieldOf_lt w 0 8
  have h2 := fieldOf_lt w 8 8
  have h3 := fieldOf_lt w 16 3
  have h4 := fieldOf_lt w 20 10
  obtain ⟨ha, hb, hc, hd, -⟩ := h
  refine ⟨ha, hb, hc, hd, Nat.le_max_left _ _, ?_, Nat.le_max_left _ _, ?_, ?_, Nat.le_max_left _ _, ?_⟩ <;>
    simp only [withLink] <;> omega

theorem parts_onSettings (x : Branch) {f : BranchSettings → BranchSettings} (hf : ∀ t, settingsInRange t → settingsInRange (f t)) :
    Parts D s D (onSettings x f s) :=
  parts_alone (.settings _ (hf _))

end Settings

/-! ### The commands of the register window -/

section Window
variable {s : State}

theorem parts_freeSlots {D : Finset Branch} (ks : List Slot) (hnd : ks.Nodup) (hks : ∀ k ∈ ks, ∃ e ∈ s.entries, e.slot = k ∧
    isIssued e = false ∧ (isPending e = true → e.branch ∈ D)) : Parts D s D (ks.foldl (fun t k => freeSlot k t) s) := by
  induction ks generalizing s with
  | nil => exact .refl
  | cons k ks ih =>
    obtain ⟨e, he, rfl, hi, hD⟩ := hks k List.mem_cons_self
    obtain ⟨hk, hnd⟩ := List.nodup_cons.1 hnd
    refine .head (.free e he hi hD) (ih hnd fun j hj => ?_)
    obtain ⟨f, hf, rfl, hfi, hfD⟩ := hks j (List.mem_cons_of_mem _ hj)
    refine ⟨f, ?_, rfl, hfi, hfD⟩
    rw [freeSlot_frame]
    exact List.mem_filter.2 ⟨hf, by simpa using fun h => hk (by rwa [← h])⟩

theorem parts_freeSlotsWhere {D : Finset Branch} {p : Entry → Bool}
    (hp : ∀ e, p e = true → isIssued e = false ∧ (isPending e = true → e.branch ∈ D)) : Parts D s D (freeSlotsWhere p s) := by
  refine parts_freeSlots _ (slotsWhere_nodup p s) fun k hk => ?_
  obtain ⟨e, he, hs, hpe⟩ := (mem_slotsWhere p s k).1 hk
  exact ⟨e, he, hs, hp e hpe⟩

theorem freedByAbandon_iff (m : Master) (e : Entry) : freedByAbandon m e = true ↔ e.master = m ∧ isIssued e = false := by
  unfold freedByAbandon isReady isPending isIssued
  cases e.state <;> simp

/-- The four branches looked at. -/
def everyBranch : Finset Branch := {.a, .b, .c, .d}

theorem mem_everyBranch (x : Branch) : x ∈ everyBranch := by cases x <;> decide

/-- ABANDON's five steps, and the drains that its freed entries held open (R22, R139). -/
theorem parts_abandonMaster (m : Master) : Parts ∅ s ∅ (abandonMaster m s) := by
  have hlook : Parts ∅ s everyBranch s :=
    .head (.look .d) (.head (.look .c) (.head (.look .b) (.single (.look .a))))
  have hsettle : ∀ u, Parts everyBranch u ∅ (allBranches.foldl (fun t x => completeDrain x t) u) := fun u =>
    .head (.settle .a) (.head (.settle .b) (.head (.settle .c) (.single (.settle .d))))
  have hfreed : ∀ e, freedByAbandon m e = true → isIssued e = false ∧ (isPending e = true → e.branch ∈ everyBranch) :=
    fun e he => ⟨((freedByAbandon_iff m e).1 he).2, fun _ => mem_everyBranch _⟩
  unfold abandonMaster
  extract_lets s1 s2 freed s3 marked s4 s5
  have h1 : Parts everyBranch s everyBranch s1 := .single (.unwait m)
  have h2 : Parts everyBranch s1 everyBranch s2 := .single (.endReservation m)
  have h3 : Parts everyBranch s2 everyBranch s3 := parts_freeSlotsWhere hfreed
  have h4 : Parts everyBranch s3 everyBranch s4 := .single (.mark m)
  have h5 : Parts everyBranch s4 everyBranch s5 := .single (.offer _)
  exact hlook.trans (h1.trans (h2.trans (h3.trans (h4.trans (h5.trans (hsettle s5))))))

theorem parts_probeNode (x : Branch) (n : Node) : Parts ∅ s ∅ (probeNode x n s) := by
  unfold probeNode
  split
  · exact .single .refuse
  next h =>
    obtain ⟨hheld, hn⟩ := not_or.1 h
    exact parts_alone (.probe n hn hheld)

theorem parts_reviveNode (x : Branch) (n : Node) : Parts ∅ s ∅ (reviveNode x n s) := by
  unfold reviveNode
  split
  · exact .single .refuse
  · exact parts_alone (.node n recordRevived (fun _ _ _ => ⟨Nat.zero_le _, Nat.zero_le _⟩) fun _ ho => nomatch ho)

theorem parts_quiesceBranch (x : Branch) : Parts ∅ s ∅ (quiesceBranch x s) := by
  unfold quiesceBranch
  split
  next hactive =>
    have hsettled : (insert x (∅ : Finset Branch)).erase x = ∅ := by simp
    refine .head (.look x) (.head (.opens x (fun u => { u with ctrl := .draining }) (.draining hactive)
      (Finset.mem_insert_self x ∅)) (.single ?_))
    simpa only [hsettled] using Part.settle (D := insert x ∅) x
  · exact .refl
  · exact .refl
  · exact .single .refuse

theorem parts_resumeBranch (x : Branch) : Parts ∅ s ∅ (resumeBranch x s) := by
  unfold resumeBranch
  split
  · exact .refl
  next h => exact parts_alone (.resume (.inl h))
  next h => exact parts_alone (.resume (.inr h))
  · exact .single .refuse

theorem claimStart_offerFlushed (x : Branch) (n : Nat) (s : State) : claimStart (offerFlushed x n s) = claimStart s := by
  unfold offerFlushed
  split
  · rfl
  · simp [claimStart]

theorem enterHeld_eq (x : Branch) (s : State) :
    enterHeld x s = holdColumn x (offerFlushed x (unitOf s x).queue.length s) := by
  simp only [enterHeld, holdColumn, claimStart_offerFlushed, unitOf_offerFlushed]

theorem parts_holdBranch (x : Branch) : Parts ∅ s ∅ (holdBranch x s) := by
  by_cases hheld : (unitOf s x).ctrl = .held
  · rw [holdBranch_of_held hheld]
  · rw [holdBranch_of_not_held hheld, enterHeld_eq]
    have hflush : Parts ∅ s ∅ (offerFlushed x (unitOf s x).queue.length s) := by
      unfold offerFlushed
      split
      · exact .refl
      · exact .single (.offer _)
    exact hflush.tail (.held x (by simpa using hheld))

/-- A command field takes its four commands; RELEASE of a HELD branch is an event of its own. -/
theorem parts_branchCommand (x : Branch) (code : Nat) (h : code = 4 → (unitOf s x).ctrl ≠ .held) :
    Parts ∅ s ∅ (branchCommand x code s) := by
  unfold branchCommand
  split
  · exact parts_quiesceBranch x
  · exact parts_resumeBranch x
  · exact parts_holdBranch x
  · rw [releaseBranch_of_not_held (h rfl)]
    exact .single .refuse
  · exact .single .refuse

end Window

/-! ### Admission -/

section Admission
variable {a : Access} {w : Width} {p : Aperture} {s : State}

theorem parts_chooseSlot (hfresh : ∀ e ∈ s.entries, ¬ Matches a w e) (hnode : p.node ≠ 0)
    (hoff : nodeIsOffline (unitOf s p.branch) p.node = false) (hactive : (unitOf s p.branch).ctrl = .active) :
    Parts ∅ s ∅ (chooseSlot a w p s) := by
  unfold chooseSlot
  split
  next r hr => exact Parts.respond (.single (.create a w p r.slot hfresh hnode hoff hactive (.inl ⟨r, hr, rfl⟩))) _ _ _
  next hnone =>
    have hset : s.reservations.set a.master none = s.reservations := by rw [← hnone, PerMaster.set_get]
    split
    next k hk =>
      have hopen : OpenSlot s k := (slotOpen_iff s k).1 (List.find?_some hk)
      have hcreate := Part.create (D := ∅) a w p k hfresh hnode hoff hactive (.inr ⟨hnone, hopen⟩)
      rw [hset] at hcreate
      exact Parts.respond (.single hcreate) _ _ _
    next hlow =>
      refine Parts.respond ?_ _ _ _
      unfold joinWaiting
      split
      · exact .refl
      next h =>
        obtain ⟨hwindow, hmem⟩ := not_or.1 h
        refine .single (.wait a.master hwindow hmem hnone fun k hk => ?_)
        have hall := List.find?_eq_none.1 hlow k (by rw [allSlots_eq]; exact List.mem_finRange k)
        exact hall ((slotOpen_iff s k).2 hk)

theorem parts_admitDeferred (hfresh : ∀ e ∈ s.entries, ¬ Matches a w e) (hnode : p.node ≠ 0)
    (hoff : nodeIsOffline (unitOf s p.branch) p.node = false) (hactive : (unitOf s p.branch).ctrl = .active) :
    Parts ∅ s ∅ (admitDeferred a w p s) := by
  simp only [admitDeferred]
  split
  · exact parts_accessFault _ _
  · split
    · exact parts_respond _ _ _
    · exact parts_chooseSlot hfresh hnode hoff hactive

theorem parts_admitPosted (hactive : (unitOf s p.branch).ctrl = .active) : Parts ∅ s ∅ (admitPosted a w p s) := by
  unfold admitPosted
  split
  · exact parts_respond _ _ _
  next h => exact Parts.respond (parts_alone (.post _ (Nat.lt_of_not_le h) hactive)) _ _ _

theorem parts_admitDecoded (hfresh : ∀ e ∈ s.entries, ¬ Matches a w e) (hread : a.kind = .read → p.node ≠ 0) :
    Parts ∅ s ∅ (admitDecoded a w p s) := by
  unfold admitDecoded
  split
  · exact parts_respondFailed _ _ _
  · exact parts_respond _ _ _
  · exact parts_respond _ _ _
  next hactive =>
    unfold admitActive
    split
    · exact Parts.respond (parts_alone (.node p.node countDropped (fun _ hf _ => ⟨hf, Nat.min_le_left _ _⟩) fun _ ho => ho)) _ _ _
    · exact parts_respondFailed _ _ _
    · exact parts_admitPosted hactive
    next hoff hroute =>
      have hnode : p.node ≠ 0 := by
        intro h0
        cases hk : a.kind with
        | read => exact hread hk h0
        | write => simp [postedRoute, hk, h0] at hroute
      exact parts_admitDeferred hfresh hnode hoff hactive

theorem parts_newRequest (hfresh : ∀ e ∈ s.entries, ¬ Matches a w e) : Parts ∅ s ∅ (newRequest a w s) := by
  unfold newRequest
  split
  · exact parts_accessFault _ _
  · split
    · exact parts_accessFault _ _
    · split
      · exact parts_accessFault _ _
      next h => exact parts_admitDecoded hfresh fun hk h0 => h ⟨hk, h0⟩

theorem parts_answerRepeat {e : Entry} (he : e ∈ s.entries) : Parts ∅ s ∅ (answerRepeat a w e s) := by
  unfold answerRepeat
  split
  · exact parts_respond _ _ _
  · exact parts_respond _ _ _
  next o d c hs =>
    refine (parts_freeReady he ((isReady_iff e).2 ⟨o, d, c, hs⟩)).trans ?_
    unfold claimResponse
    split
    · exact parts_respond _ _ _
    · exact parts_respond _ _ _
    · exact parts_respondFailed _ _ _

end Admission

/-! ### The inversion of a step -/

/-- The command is the 4-byte write of `w` to register `r`. -/
def Writes (c : Instr) (a : Access) (r : Reg) : Prop :=
  accessOf c = some a ∧ a.kind = .write ∧ alignedWidth a = some .w4 ∧ regAt a.addr.toNat = some r

/-- What a command can do: a chain of parts, which looks at no drain any more at its end; one of the two flag writes; RELEASE of a HELD
branch; a reset; a tick. -/
inductive Event (c : Instr) (s : State) : State → Prop
  | parts {t : State} (h : Parts ∅ s ∅ t) : Event c s t
  | refusedWrite (a : Access) (h : Writes c a .commandRefused) :
      Event c s (respond a.master .complete none (writeCommandRefused a.lanes s))
  | attentionWrite (a : Access) (h : Writes c a .attentionStatus) :
      Event c s (respond a.master .complete none (writeAttentionStatus a.lanes s))
  | release (a : Access) (x : Branch) (held : (unitOf s x).ctrl = .held) :
      Event c s (respond a.master .complete none (onUnit x (fun u => { u with ctrl := .quiesced, engine := .idle }) s))
  | chipReset (a : Access) (h : Writes c a .chipReset) (one : flagOf a.lanes 0 = true) :
      Event c s (respond a.master .complete none (chipResetState s))
  | pinReset (h : c = .pinReset) : Event c s (pinResetState s)
  | tick (order : List Timer) : Event c s (tick order s)

section Inversion
variable {c : Instr} {a : Access} {s : State}

/-- A write of a register, register by register. -/
theorem event_of_writeReg {r : Reg} {t : State} (h : Writes c a r) (heffect : writeReg r a.lanes s = some t) :
    Event c s (respond a.master .complete none t) := by
  cases r <;> simp only [writeReg, Option.some.injEq, reduceCtorEq] at heffect <;> subst heffect
  case chipReset =>
    split
    next hone => exact .chipReset a h hone
    next => exact .parts (parts_respond _ _ _)
  case divisor => exact .parts (.respond (parts_writeDivisor _) _ _ _)
  case quotas => exact .parts (.respond (parts_writeQuotas _) _ _ _)
  case claimWindow => exact .parts (.respond (.single (.claimWindow _)) _ _ _)
  case resWindow => exact .parts (.respond (.single (.resWindow _)) _ _ _)
  case abandon => exact .parts (.respond (parts_abandonMaster _) _ _ _)
  case commandRefused => exact .refusedWrite a h
  case recordCounter =>
    split
    · exact .parts (.respond (.single .pop) _ _ _)
    · exact .parts (parts_respond _ _ _)
  case attentionStatus => exact .attentionWrite a h
  case attentionEnables =>
    exact .parts (.single (.port _ s.phase (writeEnables a.lanes s).enables))
  case probe => exact .parts (.respond (parts_probeNode _ _) _ _ _)
  case revive => exact .parts (.respond (parts_reviveNode _ _) _ _ _)
  case apertureWord0 n => exact .parts (.respond (parts_onAperture n (f := withWord0 a.lanes) fun _ _ => Nat.min_le_left _ _) _ _ _)
  case apertureWord1 n => exact .parts (.respond (parts_onAperture n (f := withWord1 a.lanes) fun _ h => h) _ _ _)
  case branchCommand x =>
    by_cases hrel : fieldOf a.lanes 0 4 = 4 ∧ (unitOf s x).ctrl = .held
    · rw [hrel.1]
      simp only [branchCommand, releaseBranch_of_held hrel.2]
      exact .release a x hrel.2
    · exact .parts (.respond (parts_branchCommand x _ fun h4 hheld => hrel ⟨h4, hheld⟩) _ _ _)
  case branchRates x => exact .parts (.respond (parts_onSettings x fun _ => settingsInRange_withRates _) _ _ _)
  case branchLink x => exact .parts (.respond (parts_onSettings x fun _ => settingsInRange_withLink _) _ _ _)

theorem event_of_registerAccess {w : Width} (hc : accessOf c = some a) (hw : alignedWidth a = some w) :
    Event c s (registerAccess a w s) := by
  unfold registerAccess
  split
  · exact .parts (parts_respond _ _ _)
  next r hreg hkind =>
    split
    next t heffect => exact event_of_writeReg ⟨hc, hkind, hw, hreg⟩ heffect
    next => exact .parts (parts_accessFault _ _)
  · exact .parts (parts_accessFault _ _)

theorem event_of_admission (hc : accessOf c = some a) : Event c s (runAdmission a s) := by
  unfold runAdmission
  split
  · exact .parts (parts_respond _ _ _)
  · split
    · exact .parts (parts_accessFault _ _)
    next w hw =>
      split
      · exact event_of_registerAccess hc hw
      · split
        next e he => exact .parts (parts_answerRepeat (List.mem_of_find?_eq_some he))
        next hnone => exact .parts (parts_newRequest (repeatOf_eq_none.1 hnone))

/-- The end of a reset, where it is in progress. -/
theorem event_of_phase (old new : Phase) : Event c s (if s.phase = old then { s with phase := new } else s) := by
  split
  · exact .parts (.single (.port s.response new s.enables))
  · exact .parts .refl

/-- The inversion of one command: it answers next, with an event. -/
theorem exec_event (c : Instr) (s : State) : ∃ t, exec c s = .next t ∧ Event c s t := by
  cases ha : accessOf c with
  | some a => exact ⟨_, exec_of_accessOf ha s, event_of_admission ha⟩
  | none =>
    cases c <;> simp [accessOf, writeOf] at ha
    case chipResetEnd => exact ⟨_, rfl, event_of_phase _ _⟩
    case pinReset => exact ⟨_, rfl, .pinReset rfl⟩
    case initialisationEnd => exact ⟨_, rfl, event_of_phase _ _⟩
    case claimTimerExpiry k => exact ⟨_, rfl, .parts (parts_expireClaim k)⟩
    case reservationExpiry m => exact ⟨_, rfl, .parts (parts_expireReservation m)⟩
    case choiceEvent x => exact ⟨_, rfl, .parts parts_choiceEvent⟩
    case sendComplete x => exact ⟨_, rfl, .parts parts_finishSend⟩
    case replyFrame x f => exact ⟨_, rfl, .parts (parts_receiveFrame f)⟩
    case replyWindowExpiry x => exact ⟨_, rfl, .parts (parts_expireReplyWindow x)⟩
    case parkedHoldDelayExpiry x => exact ⟨_, rfl, .parts (parts_expireParked x)⟩
    case backoffHoldDelayExpiry x => exact ⟨_, rfl, .parts (parts_expireBackoff x)⟩
    case drainComplete x => exact ⟨_, rfl, .parts (.single (.settle x))⟩
    case rstNRelease => exact ⟨_, rfl, event_of_phase _ _⟩
    case startMark x => exact ⟨_, rfl, .parts parts_receiveStart⟩
    case microsecondTick order => exact ⟨_, rfl, .tick order⟩

theorem event_of_exec {t : State} (h : exec c s = .next t) : Event c s t := by
  obtain ⟨u, hu, hevent⟩ := exec_event c s
  rw [hu, Host.Outcome.next.injEq] at h
  rwa [← h]

end Inversion

end Sys2Proof.Machine
end

section
/-! Invariants of a step: what has to be shown of a predicate for every step to keep it (`KeptByEvents.step`), what a part does to the
column of one branch (`Part.column`), and the invariants of one column alone: counts, probe sets, settings and parked nodes. -/

-- One theorem at a time: elaborated side by side, the proofs of this text need more memory than its check allows.
set_option Elab.async false

namespace Sys2Proof.Machine

/-! ### The rule for an invariant -/

/-- A predicate that every kind of event keeps. -/
structure KeptByEvents (P : State → Prop) : Prop where
  part : ∀ {D E : Finset Branch} {s t : State}, Part (D, s) (E, t) → P s → P t
  release : ∀ (x : Branch) {s : State}, (unitOf s x).ctrl = .held → P s →
    P (onUnit x (fun u => { u with ctrl := .quiesced, engine := .idle }) s)
  refused : ∀ (w : Word) {s : State}, P s → P (writeCommandRefused w s)
  attention : ∀ (w : Word) {s : State}, P s → P (writeAttentionStatus w s)
  chipReset : ∀ {s : State}, P s → P (chipResetState s)
  pinReset : ∀ {s : State}, P s → P (pinResetState s)
  ticks : ∀ (order : List Timer) {s : State}, P s → P (tick order s)
  queue : ∀ (q : List Instr) {s : State}, P s → P { s with pending := q }

section Rule
variable {P : State → Prop} {s t : State}

theorem keep_parts (part : ∀ {D E : Finset Branch} {s t : State}, Part (D, s) (E, t) → P s → P t) {D E : Finset Branch}
    (h : Parts D s E t) (hs : P s) : P t :=
  Parts.keep (P := fun _ => P) part h hs

/-- A tick keeps what its lowering of the timers and the parts of the expiries keep. -/
theorem keep_tick (part : ∀ {D E : Finset Branch} {s t : State}, Part (D, s) (E, t) → P s → P t)
    (lower : ∀ {s : State}, P s → P (lowerTimers s)) (order : List Timer) {u : State} (hu : P u) : P (tick order u) :=
  keep_parts part (parts_expiries _) (lower hu)

theorem KeptByEvents.event (h : KeptByEvents P) {c : Instr} (hev : Event c s t) (hs : P s) : P t := by
  have hrespond : ∀ {u : State} (m : Master), P u → P (respond m .complete none u) := fun m hu =>
    keep_parts h.part (parts_respond (D := ∅) m .complete none) hu
  cases hev with
  | parts hp => exact keep_parts h.part hp hs
  | refusedWrite a _ => exact hrespond _ (h.refused _ hs)
  | attentionWrite a _ => exact hrespond _ (h.attention _ hs)
  | release a x held => exact hrespond _ (h.release x held hs)
  | chipReset a _ _ => exact hrespond _ (h.chipReset hs)
  | pinReset _ => exact h.pinReset hs
  | tick order => exact h.ticks order hs

/-- An invariant: every step keeps what every kind of event keeps. -/
theorem KeptByEvents.step (h : KeptByEvents P) (hs : P s) (hstep : step s = .next t) : P t := by
  cases hq : s.pending with
  | nil =>
    rw [step_of_empty hq, Host.Outcome.next.injEq] at hstep
    rwa [← hstep]
  | cons c rest =>
    rw [step_of_front hq] at hstep
    exact h.event (event_of_exec hstep) (h.queue rest hs)

/-- The two states agree in the Request Table, its windows and the branches: what most invariants look at. -/
structure SameCore (s t : State) : Prop where
  entries : t.entries = s.entries
  waiting : t.waiting = s.waiting
  reservations : t.reservations = s.reservations
  branches : t.branches = s.branches
  claimWindow : t.claimWindow = s.claimWindow
  resWindow : t.resWindow = s.resWindow

/-- The rule for a predicate that looks at no more than that. -/
theorem KeptByEvents.of_core (core : ∀ {s t : State}, SameCore s t → P s → P t) (reset : P State.reset)
    (part : ∀ {D E : Finset Branch} {s t : State}, Part (D, s) (E, t) → P s → P t)
    (release : ∀ (x : Branch) {s : State}, (unitOf s x).ctrl = .held → P s →
      P (onUnit x (fun u => { u with ctrl := .quiesced, engine := .idle }) s))
    (ticks : ∀ (order : List Timer) {s : State}, P s → P (tick order s)) : KeptByEvents P where
  part := part
  release := release
  refused _ s hs := core (s := s) ⟨rfl, rfl, rfl, rfl, rfl, rfl⟩ hs
  attention _ s hs := core (s := s) ⟨rfl, rfl, rfl, rfl, rfl, rfl⟩ hs
  chipReset _ := core (s := State.reset) ⟨rfl, rfl, rfl, rfl, rfl, rfl⟩ reset
  pinReset _ := core (s := State.reset) ⟨rfl, rfl, rfl, rfl, rfl, rfl⟩ reset
  ticks := ticks
  queue _ s hs := core (s := s) ⟨rfl, rfl, rfl, rfl, rfl, rfl⟩ hs

end Rule

/-! ### Columns under the operations of the Request Table -/

section Columns
variable (x y : Branch) (s : State)

@[simp] theorem unitOf_handOver (k : Slot) : unitOf (handOver k s) y = unitOf s y := by rw [handOver_frame]; rfl

@[simp] theorem unitOf_endReservation (m : Master) : unitOf (endReservation m s) y = unitOf s y := by
  unfold endReservation
  split
  · rfl
  · rw [unitOf_handOver]; rfl

@[simp] theorem unitOf_popRecord : unitOf (popRecord s) y = unitOf s y := rfl
@[simp] theorem unitOf_refuseCommand : unitOf (refuseCommand s) y = unitOf s y := rfl
@[simp] theorem unitOf_writeResWindow (w : Word) : unitOf (writeResWindow w s) y = unitOf s y := rfl

@[simp] theorem unitOf_writeClaimWindow (w : Word) : unitOf (writeClaimWindow w s) y = unitOf s y := by
  simp only [writeClaimWindow]
  split <;> rfl

@[simp] theorem unitOf_endDeferred (k : Slot) (en : TxEnd) : unitOf (endDeferred k en s) y = unitOf s y := by
  unfold endDeferred
  split
  · rfl
  · split
    · exact unitOf_freeSlot k s y
    · rfl
    · rfl

@[simp] theorem unitOf_startEntry (k : Slot) (tx : Txn) (rate : LineRate) : unitOf (startEntry x k tx rate s) y =
    if y = x then { countIssue 0 (unitOf s y) with engine := .transmit tx rate } else unitOf s y := by
  rw [startEntry, unitOf_onEntries, unitOf_onUnit]

@[simp] theorem unitOf_holdColumn : unitOf (holdColumn x s) y = if y = x then heldUnit (unitOf s y) else unitOf s y := by
  rw [holdColumn, unitOf_freeSlotsWhere, unitOf_onEntries, unitOf_onUnit]

@[simp] theorem unitOf_disengage : unitOf (disengage x s) y = if y = x then { unitOf s y with engine := .idle } else unitOf s y := by
  rw [disengage, unitOf_onUnit]

@[simp] theorem unitOf_turnNode (n : Node) (op : Op) : unitOf (turnNode x n op s) y =
    if y = x then onNode n (recordSilent op (unitOf s x).settings.offlineThreshold) (unitOf s y) else unitOf s y := by
  rw [turnNode, unitOf_onEntries, unitOf_onUnit]

theorem unitOf_drainedState : unitOf (drainedState x s) y = if y = x then { unitOf s y with ctrl := .quiesced } else unitOf s y := by
  rw [drainedState_eq, unitOf_setQuiesced, unitOf_onUnit]

end Columns

/-! ### The column of one branch under a part -/

/-- What a part does to the column of a branch. -/
inductive Column (u : BranchUnit) : BranchUnit → Prop
  | same : Column u u
  | alone {v : BranchUnit} (h : Alone u v) : Column u v
  | opens {v : BranchUnit} (h : Opens u v) : Column u v
  | depart (idle : u.headInFlight = false) : Column u { u with queue := u.queue.tail, headInFlight := false }
  | entry (tx : Txn) (k : Slot) (rate : LineRate) (may : MayChoose u) (source : tx.source = .slot k) (apart : NotParked u tx.node) :
      Column u { countIssue 0 u with engine := .transmit tx rate }
  | finishPosted (tx : Txn) (current : currentTxn u.engine = some tx) (source : tx.source = .posted) :
      Column u { u with engine := .idle, queue := u.queue.tail, headInFlight := false }
  | finishSlot (tx : Txn) (k : Slot) (current : currentTxn u.engine = some tx) (source : tx.source = .slot k) : Column u { u with engine := .idle }
  | turn (n : Node) (op : Op) : Column u (onNode n (recordSilent op u.settings.offlineThreshold) u)
  | held (free : u.ctrl ≠ .held) : Column u (heldUnit u)
  | complete (draining : u.ctrl = .draining) (queue : u.queue = []) (park : u.park = none) (idle : u.engine = .idle) :
      Column u { u with ctrl := .quiesced }

theorem column_of_onUnit {u v : BranchUnit} {x y : Branch} {s : State} {f : BranchUnit → BranchUnit} (hu : u = unitOf s y)
    (hv : v = if y = x then f (unitOf s y) else unitOf s y) (h : y = x → Column (unitOf s x) (f (unitOf s x))) : Column u v := by
  subst hu hv
  split
  next hy => subst hy; exact h rfl
  next => exact .same

/-- The column of each branch, part by part. -/
theorem Part.column {D E : Finset Branch} {s t : State} (h : Part (D, s) (E, t)) (y : Branch) : Column (unitOf s y) (unitOf t y) := by
  cases h with
  | port | knobs | refuse | pop | unwait | create | wait | resWindow | mark | look => exact .same
  | offer => rw [unitOf_offer]; exact .same
  | free => rw [unitOf_freeSlot]; exact .same
  | endReservation => rw [unitOf_endReservation]; exact .same
  | claimWindow => rw [unitOf_writeClaimWindow]; exact .same
  | alone x f h => exact column_of_onUnit rfl (unitOf_onUnit x y f s) fun _ => .alone h
  | opens x f h _ => exact column_of_onUnit rfl (unitOf_onUnit x y f s) fun _ => .opens h
  | depart x idle _ =>
    exact column_of_onUnit (f := fun u => { u with queue := u.queue.tail, headInFlight := false }) rfl
      (unitOf_departHead x y s) fun _ => .depart idle
  | entry x e tx rate may _ _ _ source apart =>
    exact column_of_onUnit (f := fun u => { countIssue 0 u with engine := .transmit tx rate }) rfl
      (unitOf_startEntry x y s e.slot tx rate) fun _ => .entry tx _ rate may source apart
  | finishPosted x tx current source _ =>
    refine column_of_onUnit (s := s) (x := x) (y := y)
      (f := fun u => { u with engine := .idle, queue := u.queue.tail, headInFlight := false }) rfl ?_ fun _ => .finishPosted tx current source
    rw [unitOf_departHead, unitOf_disengage]
    split <;> rfl
  | finishSlot x tx k en current source _ =>
    refine column_of_onUnit (s := s) (x := x) (y := y) (f := fun u => { u with engine := .idle }) rfl ?_ fun _ => .finishSlot tx k current source
    rw [unitOf_endDeferred, unitOf_disengage]
  | turn x n op _ _ => exact column_of_onUnit rfl (unitOf_turnNode x y s n op) fun _ => .turn n op
  | held x free => exact column_of_onUnit rfl (unitOf_holdColumn x y s) fun _ => .held free
  | settle x =>
    by_cases hd : (unitOf s x).ctrl = .draining ∧ Drained s x
    · rw [completeDrain_of_drained hd.1 hd.2]
      obtain ⟨hc, hq, -, -, hp, he⟩ := hd
      exact column_of_onUnit (f := fun u => { u with ctrl := .quiesced }) rfl (unitOf_drainedState x y s) fun _ => .complete hc hq hp he
    · rw [completeDrain_of_not hd]
      exact .same

/-- The rule for an invariant of the columns alone. -/
theorem keptByEvents_columns {Q : BranchUnit → Prop} (reset : Q branchReset) (column : ∀ {u v : BranchUnit}, Column u v → Q u → Q v)
    (release : ∀ {u : BranchUnit}, u.ctrl = .held → Q u → Q { u with ctrl := .quiesced, engine := .idle })
    (ticks : ∀ (order : List Timer) {s : State}, (∀ x, Q (unitOf s x)) → ∀ x, Q (unitOf (tick order s) x)) :
    KeptByEvents (fun s => ∀ x, Q (unitOf s x)) := by
  refine .of_core (fun h hs x => ?_) (fun x => ?_) (fun h hs x => column (h.column x) (hs x)) (fun x s hheld hs y => ?_) ticks
  · rw [unitOf, h.branches]
    exact hs x
  · cases x <;> exact reset
  · rw [unitOf_onUnit]
    split
    next hy => subst hy; exact release hheld (hs y)
    next => exact hs y

theorem keep_tick_columns {Q : BranchUnit → Prop} (column : ∀ {u v : BranchUnit}, Column u v → Q u → Q v)
    (lower : ∀ {u : BranchUnit}, Q u → Q (tickUnit u)) (order : List Timer) {s : State} (hs : ∀ x, Q (unitOf s x)) (x : Branch) :
    Q (unitOf (tick order s) x) :=
  keep_tick (P := fun s => ∀ x, Q (unitOf s x)) (fun h hs x => column (h.column x) (hs x))
    (fun hs x => by rw [unitOf_lowerTimers]; exact lower (hs x)) order hs x

/-! ### Counts -/

/-- The counts of one column in their ranges. -/
def CountsOk (u : BranchUnit) : Prop :=
  u.postedRun ≤ 15 ∧ u.probeDeferral ≤ 8 ∧ ∀ n, (nodeOf u n).failures ≤ 15 ∧ (nodeOf u n).dropped ≤ 255

/-- A record of the changed table is the old one or the changed one; node 0 reads the place of node 1. -/
theorem nodeOf_onNode_cases (u : BranchUnit) (n k : Node) (f : NodeRecord → NodeRecord) :
    nodeOf (onNode n f u) k = nodeOf u k ∨ (n ≠ 0 ∧ nodeOf (onNode n f u) k = f (nodeOf u n)) := by
  unfold onNode
  split
  · exact .inl rfl
  next hn =>
    simp only [nodeOf, Vector.getElem_set]
    split
    · exact .inr ⟨hn, rfl⟩
    · exact .inl rfl

theorem CountsOk.onNode {u : BranchUnit} (h : CountsOk u) (n : Node) {f : NodeRecord → NodeRecord}
    (hf : ∀ r : NodeRecord, r.failures ≤ 15 → r.dropped ≤ 255 → (f r).failures ≤ 15 ∧ (f r).dropped ≤ 255) :
    CountsOk (onNode n f u) := by
  obtain ⟨hrun, hdef, hnodes⟩ := h
  refine ⟨by simpa using hrun, by simpa using hdef, fun k => ?_⟩
  rcases nodeOf_onNode_cases u n k f with hk | ⟨-, hk⟩ <;> rw [hk]
  · exact hnodes k
  · exact hf _ (hnodes n).1 (hnodes n).2

theorem CountsOk.countIssue {u : BranchUnit} (h : CountsOk u) {run : Nat} (hrun : run ≤ 15) : CountsOk (countIssue run u) := by
  obtain ⟨-, hdef, hnodes⟩ := h
  refine ⟨hrun, ?_, hnodes⟩
  simp only [Machine.countIssue]
  split
  · exact hdef
  · exact Nat.min_le_left _ _

theorem CountsOk.column {u v : BranchUnit} (hc : Column u v) (h : CountsOk u) : CountsOk v := by
  cases hc with
  | same => exact h
  | alone ha =>
    cases ha with
    | node n f counts _ => exact h.onNode n counts
    | startProbe => exact ⟨h.1, Nat.zero_le _, h.2.2⟩
    | startPosted => exact CountsOk.countIssue h (Nat.min_le_left _ _)
    | _ => exact h
  | opens ho => cases ho <;> exact h
  | entry => exact CountsOk.countIssue h (Nat.zero_le _)
  | turn n op => exact h.onNode n fun r _ hd => ⟨recordSilent_failures _ _ r, hd⟩
  | held => exact ⟨Nat.zero_le _, Nat.zero_le _, fun n => by simp [nodeOf, heldUnit, nodeReset]⟩
  | _ => exact h

theorem countsOk_reset : CountsOk branchReset :=
  ⟨Nat.zero_le _, Nat.zero_le _, fun n => by simp [nodeOf, branchReset, nodeReset]⟩

theorem keptByEvents_countsInRange : KeptByEvents CountsInRange :=
  keptByEvents_columns (Q := CountsOk) countsOk_reset CountsOk.column (fun _ h => h)
    (keep_tick_columns CountsOk.column fun h => h)

/-! ### Probe sets -/

/-- A probe set in order and without node 0. -/
def ProbesOk (u : BranchUnit) : Prop := u.probeSet.Pairwise (· < ·) ∧ 0 ∉ u.probeSet

theorem mem_probeJoin {n k : Node} {ps : List Node} : k ∈ probeJoin n ps ↔ k = n ∨ k ∈ ps := by
  induction ps with
  | nil => simp [probeJoin]
  | cons p ps ih =>
    unfold probeJoin
    split_ifs with h1 h2
    · rw [List.mem_cons]
    · subst h2
      rw [List.mem_cons, ← or_assoc, or_self]
    · rw [List.mem_cons, ih, List.mem_cons]
      tauto

theorem pairwise_probeJoin (n : Node) {ps : List Node} (h : ps.Pairwise (· < ·)) : (probeJoin n ps).Pairwise (· < ·) := by
  induction ps with
  | nil => simp [probeJoin]
  | cons p ps ih =>
    obtain ⟨hp, hps⟩ := List.pairwise_cons.1 h
    unfold probeJoin
    split_ifs with h1 h2
    · refine List.pairwise_cons.2 ⟨fun k hk => ?_, h⟩
      rcases List.mem_cons.1 hk with rfl | hk
      · exact h1
      · exact h1.trans (hp k hk)
    · exact h
    · refine List.pairwise_cons.2 ⟨fun k hk => ?_, ih hps⟩
      rcases mem_probeJoin.1 hk with rfl | hk
      · exact lt_of_le_of_ne (not_lt.1 h1) (Ne.symm h2)
      · exact hp k hk

theorem ProbesOk.column {u v : BranchUnit} (hc : Column u v) (h : ProbesOk u) : ProbesOk v := by
  obtain ⟨horder, hzero⟩ := h
  cases hc with
  | alone ha =>
    cases ha with
    | node n f => simpa [ProbesOk] using And.intro horder hzero
    | probe n node _ =>
      refine ⟨pairwise_probeJoin n horder, fun h0 => ?_⟩
      rcases mem_probeJoin.1 h0 with h0 | h0
      · exact node h0.symm
      · exact hzero h0
    | _ => exact ⟨horder, hzero⟩
  | opens ho =>
    cases ho with
    | probe => exact ⟨horder.filter _, fun h0 => hzero (List.mem_filter.1 h0).1⟩
    | _ => exact ⟨horder, hzero⟩
  | turn n op => simpa [ProbesOk] using And.intro horder hzero
  | held => exact ⟨.nil, List.not_mem_nil⟩
  | _ => exact ⟨horder, hzero⟩

theorem keptByEvents_probeSetsOk : KeptByEvents ProbeSetsOk :=
  keptByEvents_columns (Q := ProbesOk) ⟨.nil, List.not_mem_nil⟩ ProbesOk.column (fun _ h => h)
    (keep_tick_columns ProbesOk.column fun h => h)

/-! ### Parked nodes (section 5.2) -/

/-- No current transaction for the parked node. -/
def ApartOk (u : BranchUnit) : Prop := ∀ p tx, u.park = some p → currentTxn u.engine = some tx → p.tx.node ≠ tx.node

theorem ApartOk.of_not_parked {u : BranchUnit} {tx : Txn} (hcur : currentTxn u.engine = some tx) (h : NotParked u tx.node) :
    ApartOk u := by
  intro p tx' hp htx
  obtain rfl : tx = tx' := Option.some.inj (hcur.symm.trans htx)
  exact h p hp

theorem ApartOk.of_unparked {u : BranchUnit} (h : u.park = none) : ApartOk u := by
  intro p tx hp
  rw [h] at hp
  cases hp

theorem ApartOk.of_idle {u : BranchUnit} (h : currentTxn u.engine = none) : ApartOk u := by
  intro p tx _ htx
  rw [h] at htx
  cases htx

/-- What holds of a column holds of one with the same transactions, in the sense of `SameWork`. -/
theorem ApartOk.of_same {u v : BranchUnit} {tx tx' : Txn} (h : ApartOk u) (hpark : ∀ p, v.park = some p → ∃ q, u.park = some q ∧
    q.tx.node = p.tx.node) (hu : currentTxn u.engine = some tx) (hv : currentTxn v.engine = some tx') (hsame : SameWork tx tx') :
    ApartOk v := by
  refine .of_not_parked hv fun p hp => ?_
  obtain ⟨q, hq, hnode⟩ := hpark p hp
  rw [← hnode, hsame.2]
  exact h q tx hq hu

theorem ApartOk.column {u v : BranchUnit} (hc : Column u v) (h : ApartOk u) : ApartOk v := by
  have hself : ∀ p, u.park = some p → ∃ q, u.park = some q ∧ q.tx.node = p.tx.node := fun p hp => ⟨p, hp, rfl⟩
  cases hc with
  | alone ha =>
    cases ha with
    | node n f => simpa [ApartOk] using h
    | startParked => exact .of_unparked rfl
    | startProbe tx rate _ _ apart => exact .of_not_parked (tx := tx) rfl apart
    | startPosted tx rate _ _ _ _ apart => exact .of_not_parked (tx := tx) rfl apart
    | await tx rate sent => exact h.of_same hself (tx := tx) (by rw [sent]; rfl) rfl (.refl tx)
    | send tx tx' n rate current same =>
      refine h.of_same hself ?_ rfl same
      rcases current with hcur | hcur <;> rw [hcur] <;> rfl
    | park => exact .of_idle rfl
    | backoff tx tx' n current same => exact h.of_same hself (by rw [current]; rfl) rfl same
    | due tx n waits =>
      intro p tx' hp htx
      obtain rfl := Option.some.inj hp
      have hnode := h _ tx' waits htx
      exact hnode
    | _ => exact h
  | opens ho =>
    cases ho with
    | resync => exact .of_idle rfl
    | probe => exact .of_idle rfl
    | draining => exact h
  | entry tx k rate _ _ apart => exact .of_not_parked (tx := tx) rfl apart
  | finishPosted => exact .of_idle rfl
  | finishSlot => exact .of_idle rfl
  | turn n op => simpa [ApartOk] using h
  | held => exact .of_unparked rfl
  | _ => exact h

theorem ApartOk.tickUnit {u : BranchUnit} (h : ApartOk u) : ApartOk (tickUnit u) := by
  have hcur : currentTxn (tickEngine u.engine) = currentTxn u.engine := by cases u.engine <;> rfl
  intro p tx hp htx
  obtain ⟨q, hq, rfl⟩ := Option.map_eq_some_iff.1 hp
  have hnode := h q tx hq (hcur ▸ htx)
  obtain ⟨qtx, _ | _⟩ := q <;> exact hnode

theorem keptByEvents_nodesApart : KeptByEvents NodesApart :=
  keptByEvents_columns (Q := ApartOk) (.of_unparked rfl) ApartOk.column (fun _ _ => .of_idle rfl)
    (keep_tick_columns ApartOk.column ApartOk.tickUnit)

/-- Settles O32: a transaction is started only for a node that is not the parked one, and parking leaves the engine idle. -/
theorem stepKeepsOneTransactionPerNode : Obligations.StepKeepsOneTransactionPerNode :=
  fun _ _ hs hstep => keptByEvents_nodesApart.step hs hstep

end Sys2Proof.Machine
end

section
/-! The Request Table under every part (chapter 1): slots, reservations and the waiting list stay consistent, no two entries become one
request. -/

-- One theorem at a time: elaborated side by side, the proofs of this text need more memory than its check allows.
set_option Elab.async false

namespace Sys2Proof.Machine

/-! ### The table as its slots, its waiting list and the owners of its reservations -/

/-- The slot a master's reservation names. -/
def ownedBy (s : State) (m : Master) : Option Slot := (s.reservations.get m).map Reservation.slot

/-- The slots of the live entries. -/
def liveSlots (s : State) : List Slot := s.entries.map Entry.slot

/-- The consistency of the table, with slots that may stand open for a moment beside a waiting master. -/
structure Consistent (loose : Slot → Prop) (slots : List Slot) (waiting : List Master) (owner : Master → Option Slot) (window : Nat) :
    Prop where
  slots_nodup : slots.Nodup
  reserved_free : ∀ m k, owner m = some k → k ∉ slots
  reserved_once : ∀ m n k, owner m = some k → owner n = some k → m = n
  waiting_nodup : waiting.Nodup
  waiting_apart : ∀ m ∈ waiting, owner m = none
  waiting_window : waiting ≠ [] → window ≠ 0
  waiting_closed : waiting ≠ [] → ∀ k, loose k ∨ k ∈ slots ∨ ∃ m, owner m = some k

/-- No slot is loose between two events. -/
def settled (_ : Slot) : Prop := False

theorem slotFree_iff (s : State) (k : Slot) : slotFree s k = true ↔ k ∉ liveSlots s := by
  simp [slotFree, liveSlots]

theorem ownedBy_eq_some {s : State} {m : Master} {k : Slot} : ownedBy s m = some k ↔ ∃ r, s.reservations.get m = some r ∧ r.slot = k :=
  Option.map_eq_some_iff

theorem ownedBy_eq_none {s : State} {m : Master} : ownedBy s m = none ↔ s.reservations.get m = none := Option.map_eq_none_iff

theorem not_openSlot_iff (s : State) (k : Slot) : ¬ OpenSlot s k ↔ k ∈ liveSlots s ∨ ∃ m, ownedBy s m = some k := by
  simp only [OpenSlot, liveSlots, List.mem_map, ownedBy_eq_some, not_and_or, not_forall, not_not, ne_eq, exists_prop]

theorem tableOk_iff (s : State) : TableOk s ↔ Consistent settled (liveSlots s) s.waiting (ownedBy s) s.resWindow := by
  constructor
  · intro h
    refine ⟨h.slots_nodup, fun m k hm => ?_, fun m n k hm hn => ?_, h.waiting_nodup, fun m hm => ownedBy_eq_none.2 (h.waiting_apart m hm),
      h.waiting_window, fun hw k => .inr ((not_openSlot_iff s k).1 fun ho => ?_)⟩
    · obtain ⟨r, hr, rfl⟩ := ownedBy_eq_some.1 hm
      exact (slotFree_iff s _).1 (h.reserved_free m r hr)
    · obtain ⟨r, hr, rfl⟩ := ownedBy_eq_some.1 hm
      obtain ⟨q, hq, hslot⟩ := ownedBy_eq_some.1 hn
      exact h.reserved_once m n r q hr hq hslot.symm
    · have hclosed := h.waiting_closed hw k
      rw [(slotOpen_iff s k).2 ho] at hclosed
      cases hclosed
  · intro h
    refine ⟨h.slots_nodup, fun m r hr => ?_, fun m n r q hr hq hslot => ?_, h.waiting_nodup,
      fun m hm => ownedBy_eq_none.1 (h.waiting_apart m hm), h.waiting_window, fun hw k => ?_⟩
    · exact (slotFree_iff s _).2 (h.reserved_free m r.slot (ownedBy_eq_some.2 ⟨r, hr, rfl⟩))
    · exact h.reserved_once m n r.slot (ownedBy_eq_some.2 ⟨r, hr, rfl⟩) (ownedBy_eq_some.2 ⟨q, hq, hslot.symm⟩)
    · rw [← Bool.not_eq_true, slotOpen_iff, not_openSlot_iff]
      exact (h.waiting_closed hw k).resolve_left id

theorem ownedBy_set (s : State) (m : Master) (v : Option Reservation) :
    ownedBy { s with reservations := s.reservations.set m v } = Function.update (ownedBy s) m (v.map Reservation.slot) := by
  funext n
  simp only [ownedBy, PerMaster.get_set, Function.update_apply]
  split <;> rfl

section Operations
variable {slots : List Slot} {waiting : List Master} {owner : Master → Option Slot} {window : Nat}

/-- An open slot goes to the head of the waiting list (R12, R18). -/
theorem Consistent.serve {k : Slot} {m : Master} (h : Consistent (· = k) slots (m :: waiting) owner window) (hk : k ∉ slots)
    (hfree : ∀ n, owner n ≠ some k) : Consistent settled slots waiting (Function.update owner m (some k)) window := by
  obtain ⟨hm, hnodup⟩ := List.nodup_cons.1 h.waiting_nodup
  have hnone : owner m = none := h.waiting_apart m List.mem_cons_self
  refine ⟨h.slots_nodup, fun n j hn => ?_, fun n n' j hn hn' => ?_, hnodup, fun n hn => ?_,
    fun _ => h.waiting_window (List.cons_ne_nil m waiting), fun _ j => ?_⟩
  · rw [Function.update_apply] at hn
    split at hn
    · obtain rfl := Option.some.inj hn
      exact hk
    · exact h.reserved_free n j hn
  · rw [Function.update_apply] at hn hn'
    split at hn <;> split at hn'
    next h1 h2 => rw [h1, h2]
    next => obtain rfl := Option.some.inj hn; exact absurd hn' (hfree n')
    next => obtain rfl := Option.some.inj hn'; exact absurd hn (hfree n)
    next => exact h.reserved_once n n' j hn hn'
  · rw [Function.update_of_ne (by rintro rfl; exact hm hn)]
    exact h.waiting_apart n (List.mem_cons_of_mem m hn)
  · rcases h.waiting_closed (List.cons_ne_nil m waiting) j with rfl | hj | ⟨n, hn⟩
    · exact .inr (.inr ⟨m, Function.update_self ..⟩)
    · exact .inr (.inl hj)
    · refine .inr (.inr ⟨n, ?_⟩)
      rw [Function.update_of_ne, hn]
      rintro rfl
      rw [hnone] at hn
      cases hn

/-- With no master waiting an open slot stays open. -/
theorem Consistent.of_no_waiting {loose : Slot → Prop} (h : Consistent loose slots [] owner window) :
    Consistent settled slots [] owner window :=
  ⟨h.slots_nodup, h.reserved_free, h.reserved_once, .nil, h.waiting_apart, h.waiting_window, fun hw => absurd rfl hw⟩

/-- An entry that ends leaves its slot loose. -/
theorem Consistent.free (h : Consistent settled slots waiting owner window) (k : Slot) :
    Consistent (· = k) (slots.filter (· ≠ k)) waiting owner window where
  slots_nodup := h.slots_nodup.filter _
  reserved_free m j hm hj := h.reserved_free m j hm (List.mem_filter.1 hj).1
  reserved_once := h.reserved_once
  waiting_nodup := h.waiting_nodup
  waiting_apart := h.waiting_apart
  waiting_window := h.waiting_window
  waiting_closed hw j := by
    by_cases hj : j = k
    · exact .inl hj
    · rcases h.waiting_closed hw j with hfalse | hmem | howned
      · exact hfalse.elim
      · exact .inr (.inl (List.mem_filter.2 ⟨hmem, by simpa using hj⟩))
      · exact .inr (.inr howned)

/-- A reservation that ends leaves its slot loose. -/
theorem Consistent.unreserve {m : Master} {k : Slot} (h : Consistent settled slots waiting owner window) (hm : owner m = some k) :
    Consistent (· = k) slots waiting (Function.update owner m none) window where
  slots_nodup := h.slots_nodup
  reserved_free n j hn := by
    rw [Function.update_apply] at hn
    split at hn
    · cases hn
    · exact h.reserved_free n j hn
  reserved_once n n' j hn hn' := by
    rw [Function.update_apply] at hn hn'
    split at hn
    · cases hn
    · split at hn'
      · cases hn'
      · exact h.reserved_once n n' j hn hn'
  waiting_nodup := h.waiting_nodup
  waiting_apart n hn := by
    rw [Function.update_apply]
    split
    · rfl
    · exact h.waiting_apart n hn
  waiting_window := h.waiting_window
  waiting_closed hw j := by
    rcases h.waiting_closed hw j with hfalse | hmem | ⟨n, hn⟩
    · exact hfalse.elim
    · exact .inr (.inl hmem)
    · by_cases hnm : n = m
      · subst hnm
        exact .inl (Option.some.inj (hn.symm.trans hm))
      · exact .inr (.inr ⟨n, by rw [Function.update_of_ne hnm, hn]⟩)

/-- An entry is created in a loose slot that no reservation names. -/
theorem Consistent.occupy {k : Slot} (h : Consistent (· = k) slots waiting owner window) (hk : k ∉ slots)
    (hfree : ∀ n, owner n ≠ some k) : Consistent settled (slots ++ [k]) waiting owner window where
  slots_nodup := by
    rw [List.nodup_append]
    refine ⟨h.slots_nodup, List.nodup_singleton k, fun j hj j' hj' => ?_⟩
    rw [List.mem_singleton] at hj'
    rintro rfl
    exact hk (hj' ▸ hj)
  reserved_free m j hm hj := by
    rcases List.mem_append.1 hj with hj | hj
    · exact h.reserved_free m j hm hj
    · rw [List.mem_singleton] at hj
      exact hfree m (hj ▸ hm)
  reserved_once := h.reserved_once
  waiting_nodup := h.waiting_nodup
  waiting_apart := h.waiting_apart
  waiting_window := h.waiting_window
  waiting_closed hw j := by
    rcases h.waiting_closed hw j with rfl | hmem | howned
    · exact .inr (.inl (by simp))
    · exact .inr (.inl (List.mem_append_left _ hmem))
    · exact .inr (.inr howned)

/-- A shorter waiting list, under any window where a master still waits. -/
theorem Consistent.shorten {waiting' : List Master} {window' : Nat} (h : Consistent settled slots waiting owner window)
    (hsub : waiting'.Sublist waiting) (hwindow : waiting' ≠ [] → window' ≠ 0) : Consistent settled slots waiting' owner window' where
  slots_nodup := h.slots_nodup
  reserved_free := h.reserved_free
  reserved_once := h.reserved_once
  waiting_nodup := h.waiting_nodup.sublist hsub
  waiting_apart m hm := h.waiting_apart m (hsub.subset hm)
  waiting_window := hwindow
  waiting_closed hw := h.waiting_closed fun hnil => hw (List.sublist_nil.1 (hnil ▸ hsub))

/-- A master joins the waiting list. -/
theorem Consistent.join {m : Master} (h : Consistent settled slots waiting owner window) (hwindow : window ≠ 0) (hm : m ∉ waiting)
    (hnone : owner m = none) (hclosed : ∀ k, k ∈ slots ∨ ∃ n, owner n = some k) :
    Consistent settled slots (waiting ++ [m]) owner window where
  slots_nodup := h.slots_nodup
  reserved_free := h.reserved_free
  reserved_once := h.reserved_once
  waiting_nodup := by
    rw [List.nodup_append]
    refine ⟨h.waiting_nodup, List.nodup_singleton m, fun n hn n' hn' => ?_⟩
    rw [List.mem_singleton] at hn'
    rintro rfl
    exact hm (hn' ▸ hn)
  waiting_apart n hn := by
    rcases List.mem_append.1 hn with hn | hn
    · exact h.waiting_apart n hn
    · rw [List.mem_singleton.1 hn, hnone]
  waiting_window _ := hwindow
  waiting_closed _ k := .inr (hclosed k)

end Operations

/-! ### The operations of the table -/

section Table
variable {s : State}

/-- The consistency looks at slots, owners, the waiting list and the window alone. -/
theorem TableOk.congr {t : State} (h : TableOk s) (hslots : liveSlots t = liveSlots s) (hwaiting : t.waiting = s.waiting)
    (howner : ownedBy t = ownedBy s) (hwindow : t.resWindow = s.resWindow) : TableOk t := by
  rw [tableOk_iff] at h ⊢
  rwa [hslots, hwaiting, howner, hwindow]

/-- Entries change but stay in their slots. -/
theorem TableOk.onEntries (h : TableOk s) {f : Entry → Entry} (hf : ∀ e, (f e).slot = e.slot) : TableOk (onEntries f s) :=
  h.congr (by simp [liveSlots, hf]) rfl rfl rfl

theorem TableOk.onUnit (h : TableOk s) (x : Branch) (f : BranchUnit → BranchUnit) : TableOk (onUnit x f s) :=
  h.congr rfl rfl rfl rfl

theorem tableOk_handOver {k : Slot} (h : Consistent (· = k) (liveSlots s) s.waiting (ownedBy s) s.resWindow) (hk : k ∉ liveSlots s)
    (hfree : ∀ n, ownedBy s n ≠ some k) : TableOk (handOver k s) := by
  rw [tableOk_iff]
  cases hw : s.waiting with
  | nil =>
    rw [handOver_of_none hw, hw]
    rw [hw] at h
    exact h.of_no_waiting
  | cons m rest =>
    rw [hw] at h
    rw [handOver_of_head hw]
    have howner := ownedBy_set s m (some { slot := k, remaining := s.resWindow * 4 })
    have hserved := h.serve hk hfree
    rwa [← Option.map_some (f := Reservation.slot) (a := { slot := k, remaining := s.resWindow * 4 }), ← howner] at hserved

theorem TableOk.freeSlot (h : TableOk s) {k : Slot} (hk : k ∈ liveSlots s) : TableOk (freeSlot k s) := by
  rw [tableOk_iff] at h
  have hslots : liveSlots { s with entries := s.entries.filter (fun e => e.slot ≠ k) } = (liveSlots s).filter (· ≠ k) := by
    simp only [liveSlots, List.filter_map]
    rfl
  refine tableOk_handOver ?_ ?_ fun n hn => h.reserved_free n k hn hk
  · rw [hslots]
    exact h.free k
  · rw [hslots]
    simp

theorem TableOk.endReservation (h : TableOk s) (m : Master) : TableOk (endReservation m s) := by
  cases hr : s.reservations.get m with
  | none => rwa [endReservation_of_none hr]
  | some r =>
    rw [endReservation_of_some hr]
    rw [tableOk_iff] at h
    have hm : ownedBy s m = some r.slot := ownedBy_eq_some.2 ⟨r, hr, rfl⟩
    have howner := ownedBy_set s m none
    have hloose := h.unreserve hm
    refine tableOk_handOver (howner ▸ hloose) (h.reserved_free m _ hm) fun n hn => ?_
    rw [howner, Function.update_apply] at hn
    split at hn
    · cases hn
    next hne => exact hne (h.reserved_once n m _ hn hm)

theorem liveSlots_freeSlot (k : Slot) (s : State) : liveSlots (Machine.freeSlot k s) = (liveSlots s).filter (· ≠ k) := by
  rw [freeSlot_frame]
  simp only [liveSlots, List.filter_map]
  rfl

theorem TableOk.freeSlots (h : TableOk s) (ks : List Slot) (hnd : ks.Nodup) (hks : ∀ k ∈ ks, k ∈ liveSlots s) :
    TableOk (ks.foldl (fun t k => Machine.freeSlot k t) s) := by
  induction ks generalizing s with
  | nil => exact h
  | cons k ks ih =>
    obtain ⟨hk, hnd⟩ := List.nodup_cons.1 hnd
    refine ih (h.freeSlot (hks k List.mem_cons_self)) hnd fun j hj => ?_
    rw [liveSlots_freeSlot]
    exact List.mem_filter.2 ⟨hks j (List.mem_cons_of_mem k hj), by simpa using fun heq : j = k => hk (heq ▸ hj)⟩

theorem TableOk.freeSlotsWhere (h : TableOk s) (p : Entry → Bool) : TableOk (freeSlotsWhere p s) := by
  refine h.freeSlots _ (slotsWhere_nodup p s) fun k hk => ?_
  obtain ⟨e, he, rfl, -⟩ := (mem_slotsWhere p s k).1 hk
  exact List.mem_map_of_mem he

theorem TableOk.endDeferred (h : TableOk s) (k : Slot) (en : TxEnd) : TableOk (endDeferred k en s) := by
  unfold Machine.endDeferred
  split
  · exact h
  next e he =>
    obtain ⟨hmem, rfl⟩ := mem_of_entryAt he
    split
    · exact h.freeSlot (List.mem_map_of_mem hmem)
    · refine h.onEntries fun f => ?_
      split <;> rfl
    · exact h

theorem TableOk.create (h : TableOk s) {a : Access} {w : Width} {p : Aperture} {k : Slot}
    (slot : (∃ r, s.reservations.get a.master = some r ∧ r.slot = k) ∨ (s.reservations.get a.master = none ∧ OpenSlot s k)) :
    TableOk { s with
      entries := s.entries ++ [newEntry a w p k s], reservations := s.reservations.set a.master none } := by
  rw [tableOk_iff] at h ⊢
  have hslots : liveSlots { s with
      entries := s.entries ++ [newEntry a w p k s], reservations := s.reservations.set a.master none } = liveSlots s ++ [k] := by
    simp [liveSlots, newEntry]
  rw [hslots]
  have howner := ownedBy_set s a.master none
  refine (congrArg (fun o => Consistent settled (liveSlots s ++ [k]) s.waiting o s.resWindow) howner).mpr ?_
  rcases slot with hreserved | ⟨hnone, hopen⟩
  · have hm : ownedBy s a.master = some k := ownedBy_eq_some.2 hreserved
    refine (h.unreserve hm).occupy (h.reserved_free _ k hm) fun n hn => ?_
    rw [Function.update_apply] at hn
    split at hn
    · cases hn
    next hne => exact hne (h.reserved_once n _ k hn hm)
  · rw [Option.map_none, ← ownedBy_eq_none.2 hnone, Function.update_eq_self]
    have hnot := mt (not_openSlot_iff s k).2 (not_not.2 hopen)
    rw [not_or, not_exists] at hnot
    refine Consistent.occupy ⟨h.slots_nodup, h.reserved_free, h.reserved_once, h.waiting_nodup, h.waiting_apart, h.waiting_window,
      fun hw j => (h.waiting_closed hw j).imp_left False.elim⟩ hnot.1 hnot.2

end Table

/-- An entry keeps what every part keeps of it: its slot and the fields of the request. -/
theorem lowerAhead_slot (x : Branch) (n : Nat) (e : Entry) : (lowerAhead x n e).slot = e.slot := by
  unfold lowerAhead
  split <;> rfl

theorem heldEntry_slot (x : Branch) (n : Nat) (c : Option Nat) (e : Entry) : (heldEntry x n c e).slot = e.slot := by
  unfold heldEntry
  split
  · exact lowerAhead_slot x n e
  · rfl

theorem releasedByTurn_slot (x : Branch) (n : Node) (c : Option Nat) (e : Entry) : (releasedByTurn x n c e).slot = e.slot := by
  unfold releasedByTurn
  split <;> rfl

theorem markAbandoned_slot (m : Master) (e : Entry) : (markAbandoned m e).slot = e.slot := by
  unfold markAbandoned
  split <;> rfl

theorem giveTimer_slot (n : Nat) (e : Entry) : (giveTimer n e).slot = e.slot := by
  unfold giveTimer
  split <;> rfl

theorem TableOk.departHead {s : State} (h : TableOk s) (x : Branch) : TableOk (departHead x s) :=
  (h.onUnit x _).onEntries (lowerAhead_slot x 1)

theorem TableOk.completeDrain {s : State} (h : TableOk s) (x : Branch) : TableOk (completeDrain x s) := by
  unfold Machine.completeDrain
  split
  · exact h.congr rfl rfl rfl rfl
  · exact h

/-- Every part keeps the table consistent (R1, R16, R18). -/
theorem TableOk.part {D E : Finset Branch} {s t : State} (hp : Part (D, s) (E, t)) (h : TableOk s) : TableOk t := by
  cases hp with
  | port | knobs | refuse | pop | look => exact h.congr rfl rfl rfl rfl
  | offer body => exact h.congr (by simp [liveSlots]) (by simp) (by funext m; simp [ownedBy]) (by simp)
  | free e live => exact h.freeSlot (List.mem_map_of_mem live)
  | unwait m =>
    rw [tableOk_iff] at h ⊢
    exact h.shorten List.filter_sublist fun hne => h.waiting_window fun hnil => hne (by simp [hnil])
  | endReservation m => exact h.endReservation m
  | create a w p k _ _ _ _ slot => exact h.create slot
  | wait m window fresh unreserved closed =>
    rw [tableOk_iff] at h ⊢
    exact h.join window fresh (ownedBy_eq_none.2 unreserved) fun k => (not_openSlot_iff s k).1 (closed k)
  | claimWindow w =>
    have h' : TableOk { s with claimWindow := fieldOf w 0 12 } := h.congr rfl rfl rfl rfl
    simp only [writeClaimWindow]
    split
    · exact h'.onEntries (giveTimer_slot _)
    · exact h'
  | resWindow w =>
    rw [tableOk_iff] at h ⊢
    refine h.shorten (waiting' := if fieldOf w 0 8 = 0 then [] else s.waiting) (window' := fieldOf w 0 8) ?_ fun hne h0 => ?_
    · split
      · exact List.nil_sublist _
      · exact List.Sublist.refl _
    · rw [if_pos h0] at hne
      exact hne rfl
  | mark m => exact h.onEntries (markAbandoned_slot m)
  | alone x f _ => exact h.onUnit x f
  | opens x f _ _ => exact h.onUnit x f
  | depart x _ _ => exact h.departHead x
  | entry x e tx rate =>
    refine (h.onUnit x _).onEntries fun f => ?_
    split <;> rfl
  | finishPosted x tx _ _ _ => exact (h.onUnit x _).departHead x
  | finishSlot x tx k en _ _ _ => exact (h.onUnit x _).endDeferred k en
  | turn x n op _ _ => exact (h.onUnit x _).onEntries (releasedByTurn_slot x n _)
  | held x _ => exact ((h.onUnit x _).onEntries (heldEntry_slot x _ _)).freeSlotsWhere _
  | settle x => exact h.completeDrain x

theorem TableOk.lowerTimers {s : State} (h : TableOk s) : TableOk (lowerTimers s) := by
  refine h.congr ?_ rfl ?_ rfl
  · simp [liveSlots, Machine.lowerTimers, Function.comp_def]
  · funext m
    rw [ownedBy, reservations_lowerTimers, tickReservation, Option.map_map]
    rfl

theorem tableOk_reset : TableOk State.reset where
  slots_nodup := .nil
  reserved_free m r h := by fin_cases m <;> cases h
  reserved_once m n r q h := by fin_cases m <;> cases h
  waiting_nodup := .nil
  waiting_apart m h := by cases h
  waiting_window h := absurd rfl h
  waiting_closed h := absurd rfl h

theorem SameCore.tableOk {s t : State} (hc : SameCore s t) (h : TableOk s) : TableOk t :=
  h.congr (by rw [liveSlots, hc.entries]; rfl) hc.waiting (by funext m; rw [ownedBy, hc.reservations]; rfl) hc.resWindow

theorem keptByEvents_tableOk : KeptByEvents TableOk :=
  .of_core SameCore.tableOk tableOk_reset TableOk.part (fun x _ _ h => h.onUnit x _) (keep_tick TableOk.part TableOk.lowerTimers)

/-- Settles O27: every part keeps the table consistent, and so every event. -/
theorem stepKeepsTableOk : Obligations.StepKeepsTableOk :=
  fun _ _ hs hstep => keptByEvents_tableOk.step hs hstep

end Sys2Proof.Machine
end

section
/-! The live entries under every part: what becomes of an entry (`EntryMove`), that no two entries become one request (R5, R27), and that
claim timers run (R36) and no timer is left at zero (R159). -/

-- One theorem at a time: elaborated side by side, the proofs of this text need more memory than its check allows.
set_option Elab.async false

namespace Sys2Proof.Machine

/-! ### What becomes of an entry -/

/-- What a part makes of an entry that stays; its request and its slot never change. -/
inductive EntryMove (s : State) (e : Entry) : Entry → Prop
  | same : EntryMove s e e
  | timer (n : Nat) (running : n ≠ 0) : EntryMove s e (giveTimer n e)
  | ready (o : Outcome) (d : Option (List Byte)) (ahead : Nat) :
      EntryMove s e { e with state := .ready o d (claimStart s), postedAhead := ahead }
  | issued (abandoned : Bool) : EntryMove s e { e with state := .issued abandoned }
  | ahead (n : Nat) : EntryMove s e { e with postedAhead := n }

theorem entryMove_lowerAhead (s : State) (x : Branch) (n : Nat) (e : Entry) : EntryMove s e (lowerAhead x n e) := by
  unfold lowerAhead
  split
  · exact .ahead _
  · exact .same

theorem entryMove_heldEntry (s : State) (x : Branch) (n : Nat) (e : Entry) : EntryMove s e (heldEntry x n (claimStart s) e) := by
  unfold heldEntry lowerAhead
  split
  · split <;> exact .ready _ _ _
  · exact .same

theorem entryMove_releasedByTurn (s : State) (x : Branch) (n : Node) (e : Entry) :
    EntryMove s e (releasedByTurn x n (claimStart s) e) := by
  unfold releasedByTurn
  split
  · exact .ready _ _ _
  · exact .same

theorem entryMove_markAbandoned (s : State) (m : Master) (e : Entry) : EntryMove s e (markAbandoned m e) := by
  unfold markAbandoned
  split
  · exact .issued true
  · exact .same

/-- The entries after a part: some of the old ones, each moved. -/
def EntriesFrom (s t : State) : Prop := ∃ f : Entry → Entry, (∀ e, EntryMove s e (f e)) ∧ t.entries.Sublist (s.entries.map f)

theorem EntriesFrom.of_sublist {s t : State} (h : t.entries.Sublist s.entries) : EntriesFrom s t :=
  ⟨id, fun _ => .same, by rwa [List.map_id]⟩

theorem EntriesFrom.of_map {s t : State} {f : Entry → Entry} (hf : ∀ e, EntryMove s e (f e)) (h : t.entries = s.entries.map f) :
    EntriesFrom s t :=
  ⟨f, hf, h ▸ List.Sublist.refl _⟩

theorem entries_freeSlot_sublist (k : Slot) (s : State) : (freeSlot k s).entries.Sublist s.entries := by
  rw [freeSlot_frame]
  exact List.filter_sublist

theorem entries_freeSlots_sublist (ks : List Slot) (s : State) : (ks.foldl (fun t k => freeSlot k t) s).entries.Sublist s.entries := by
  induction ks generalizing s with
  | nil => exact List.Sublist.refl _
  | cons k ks ih => exact (ih _).trans (entries_freeSlot_sublist k s)

@[simp] theorem entries_handOver (k : Slot) (s : State) : (handOver k s).entries = s.entries := by rw [handOver_frame]

@[simp] theorem entries_endReservation (m : Master) (s : State) : (endReservation m s).entries = s.entries := by
  unfold endReservation
  split
  · rfl
  · rw [entries_handOver]

@[simp] theorem entries_completeDrain (x : Branch) (s : State) : (completeDrain x s).entries = s.entries := by
  unfold completeDrain
  split <;> rfl

theorem entriesFrom_endDeferred {s t : State} (hentries : t.entries = s.entries) (hwindow : t.claimWindow = s.claimWindow) (k : Slot)
    (en : TxEnd) : EntriesFrom s (endDeferred k en t) := by
  unfold endDeferred
  split
  · exact .of_sublist (hentries ▸ List.Sublist.refl _)
  · split
    · exact .of_sublist (hentries ▸ entries_freeSlot_sublist k t)
    · refine .of_map (f := fun e' => if e'.slot = k then makeReady (claimStart t) (outcomeOf en) (readDataOf en) e' else e')
        (fun e => ?_) (by rw [onEntries_entries, hentries])
      have hstart : claimStart t = claimStart s := by rw [claimStart, claimStart, hwindow]
      split
      · rw [hstart]
        exact .ready _ _ e.postedAhead
      · exact .same
    · exact .of_sublist (hentries ▸ List.Sublist.refl _)

/-- An entry joins the table by `Part.create` alone. -/
def Created (s t : State) : Prop :=
  ∃ a w p k, (∀ e ∈ s.entries, ¬ Matches a w e) ∧ p.node ≠ 0 ∧ nodeIsOffline (unitOf s p.branch) p.node = false ∧
    t.entries = s.entries ++ [newEntry a w p k s]

theorem Part.entries {D E : Finset Branch} {s t : State} (h : Part (D, s) (E, t)) : EntriesFrom s t ∨ Created s t := by
  cases h with
  | port | knobs | refuse | pop | unwait | wait | resWindow | alone | opens | look => exact .inl (.of_sublist (List.Sublist.refl _))
  | offer body => exact .inl (.of_sublist (by rw [offer_entries]))
  | free e => exact .inl (.of_sublist (entries_freeSlot_sublist _ s))
  | endReservation m => exact .inl (.of_sublist (by rw [entries_endReservation]))
  | create a w p k fresh node answers _ _ => exact .inr ⟨a, w, p, k, fresh, node, answers, rfl⟩
  | claimWindow w =>
    simp only [writeClaimWindow]
    split
    next h =>
      have hne : fieldOf w 0 12 * Config.claimUnit ≠ 0 := Nat.mul_ne_zero h.2 (by decide)
      exact .inl (.of_map (fun e => .timer _ hne) rfl)
    next => exact .inl (.of_sublist (List.Sublist.refl _))
  | mark m => exact .inl (.of_map (entryMove_markAbandoned s m) rfl)
  | depart x => exact .inl (.of_map (entryMove_lowerAhead s x 1) rfl)
  | entry x e tx rate =>
    refine .inl (.of_map (f := fun f => if f.slot = e.slot then { f with state := .issued false } else f) (fun f => ?_) rfl)
    split
    · exact .issued false
    · exact .same
  | finishPosted x => exact .inl (.of_map (entryMove_lowerAhead s x 1) rfl)
  | finishSlot x tx k en => exact .inl (entriesFrom_endDeferred (s := s) (t := disengage x s) rfl rfl k en)
  | turn x n op => exact .inl (.of_map (entryMove_releasedByTurn s x n) rfl)
  | held x => exact .inl ⟨_, entryMove_heldEntry s x _, entries_freeSlots_sublist _ _⟩
  | settle x => exact .inl (.of_sublist (by rw [entries_completeDrain]))

/-! ### Requests -/

theorem giveTimer_eq (n : Nat) (e : Entry) : giveTimer n e = { e with state := (giveTimer n e).state } := by
  unfold giveTimer
  split <;> rfl

theorem EntryMove.sameRequest_iff {s : State} {e e' f f' : Entry} (he : EntryMove s e e') (hf : EntryMove s f f') :
    sameRequest e' f' ↔ sameRequest e f := by
  have hid : ∀ {e e' : Entry}, EntryMove s e e' → e'.master = e.master ∧ e'.kind = e.kind ∧ e'.hostAddr = e.hostAddr ∧
      e'.width = e.width ∧ e'.writeData = e.writeData ∧ e'.wordFetch = e.wordFetch := by
    intro e e' h
    cases h with
    | timer n => rw [giveTimer_eq]; exact ⟨rfl, rfl, rfl, rfl, rfl, rfl⟩
    | _ => exact ⟨rfl, rfl, rfl, rfl, rfl, rfl⟩
  obtain ⟨e1, e2, e3, e4, e5, e6⟩ := hid he
  obtain ⟨f1, f2, f3, f4, f5, f6⟩ := hid hf
  rw [sameRequest, sameRequest, e1, e2, e3, e4, e5, e6, f1, f2, f3, f4, f5, f6]

/-- An access that is the same request as a live entry matches it, so the repeat search finds it (R26, R27). -/
theorem matches_of_sameRequest {a : Access} {w : Width} {p : Aperture} {k : Slot} {s : State} {e : Entry}
    (h : sameRequest e (newEntry a w p k s)) : Matches a w e := by
  rw [newEntry_eq] at h
  obtain ⟨hmaster, hkind, h⟩ := h
  refine ⟨hmaster, hkind, ?_⟩
  rcases h with ⟨haddr, hwidth, hdata⟩ | ⟨hread, hfetch, -, hword⟩
  · refine .inl ⟨haddr, hwidth, fun hwrite => ?_⟩
    have hawrite : a.kind = .write := hkind.symm.trans hwrite
    rw [hdata hwrite]
    exact if_pos hawrite
  · exact .inr ⟨hread, hfetch, ((wordAddr_eq_iff _ _).1 hword).symm⟩

theorem RequestsDistinct.part {D E : Finset Branch} {s t : State} (hp : Part (D, s) (E, t)) (h : RequestsDistinct s) :
    RequestsDistinct t := by
  rcases hp.entries with ⟨f, hf, hsub⟩ | ⟨a, w, p, k, hfresh, -, -, hentries⟩
  · refine List.Pairwise.sublist hsub (List.pairwise_map.2 (h.imp fun hne => ?_))
    rwa [(hf _).sameRequest_iff (hf _)]
  · rw [RequestsDistinct, hentries, List.pairwise_append]
    refine ⟨h, List.pairwise_singleton _ _, fun e he e' he' hsame => ?_⟩
    rw [List.mem_singleton] at he'
    subst he'
    exact hfresh e he (matches_of_sameRequest hsame)

theorem tickEntry_eq (e : Entry) : tickEntry e = { e with state := (tickEntry e).state } := by
  unfold tickEntry
  split <;> rfl

theorem RequestsDistinct.lowerTimers {s : State} (h : RequestsDistinct s) : RequestsDistinct (lowerTimers s) := by
  refine List.pairwise_map.2 (h.imp fun {e f} hne => ?_)
  rw [tickEntry_eq e, tickEntry_eq f]
  exact hne

/-- Settles O28: entries keep their request, and one that joins the table matched no live entry. -/
theorem stepKeepsRequestsDistinct : Obligations.StepKeepsRequestsDistinct := by
  have hkept : KeptByEvents RequestsDistinct :=
    .of_core (fun hc h => by rw [RequestsDistinct, hc.entries]; exact h) .nil RequestsDistinct.part (fun _ _ _ h => h)
      (keep_tick RequestsDistinct.part RequestsDistinct.lowerTimers)
  exact fun _ _ hs hstep => hkept.step hs hstep

/-! ### Claim timers -/

theorem claimStart_eq_none {s : State} (h : claimStart s = none) : s.claimWindow = 0 := by
  by_contra hne
  simp [claimStart, hne] at h

theorem giveTimer_not_unclaimed (n : Nat) (e : Entry) (o : Outcome) (d : Option (List Byte)) :
    (giveTimer n e).state ≠ .ready o d none := by
  unfold giveTimer
  split
  · simp
  next h => exact h o d

/-- While the claim window is open, no move makes a READY entry without a claim timer. -/
theorem EntryMove.claimed {s : State} {e e' : Entry} (hm : EntryMove s e e') (hwindow : s.claimWindow ≠ 0)
    (h : ∀ o d, e.state ≠ .ready o d none) (o : Outcome) (d : Option (List Byte)) : e'.state ≠ .ready o d none := by
  cases hm with
  | same => exact h o d
  | timer n => exact giveTimer_not_unclaimed n e o d
  | ready =>
    intro hstate
    injection hstate with _ _ hstart
    exact hwindow (claimStart_eq_none hstart)
  | issued => exact fun hstate => nomatch hstate
  | ahead => exact h o d

/-- The claim window is written by its register alone. -/
theorem Part.claimWindow_eq {D E : Finset Branch} {s t : State} (hp : Part (D, s) (E, t)) :
    t.claimWindow = s.claimWindow ∨ ∃ w, t = writeClaimWindow w s := by
  have hhand : ∀ k u, (handOver k u).claimWindow = u.claimWindow := fun k u => by rw [handOver_frame]
  have hfree : ∀ k u, (freeSlot k u).claimWindow = u.claimWindow := fun k u => by rw [freeSlot_frame]
  cases hp with
  | claimWindow w => exact .inr ⟨w, rfl⟩
  | offer => exact .inl (offer_claimWindow _ _)
  | free e => exact .inl (hfree _ _)
  | endReservation m =>
    refine .inl ?_
    unfold Machine.endReservation
    split
    · rfl
    · rw [hhand]
  | finishSlot x tx k en =>
    refine .inl ?_
    unfold endDeferred
    split
    · rfl
    · split
      · exact hfree _ _
      · rfl
      · rfl
  | held x =>
    refine .inl ?_
    unfold holdColumn freeSlotsWhere
    generalize slotsWhere _ _ = ks
    have hfold : ∀ u : State, (ks.foldl (fun t k => freeSlot k t) u).claimWindow = u.claimWindow := by
      induction ks with
      | nil => exact fun _ => rfl
      | cons k ks ih => exact fun u => (ih _).trans (hfree k u)
    exact hfold _
  | settle x =>
    refine .inl ?_
    unfold completeDrain
    split <;> rfl
  | _ => exact .inl rfl

theorem ClaimTimersRun.writeClaimWindow {s : State} (h : ClaimTimersRun s) (w : Word) : ClaimTimersRun (writeClaimWindow w s) := by
  simp only [Machine.writeClaimWindow]
  split
  next =>
    intro _ e he o d
    obtain ⟨f, -, rfl⟩ := List.mem_map.1 he
    exact giveTimer_not_unclaimed _ f o d
  next hnot =>
    intro hv e he
    refine h (fun h0 => hnot ⟨h0, hv⟩) e he

theorem ClaimTimersRun.part {D E : Finset Branch} {s t : State} (hp : Part (D, s) (E, t)) (h : ClaimTimersRun s) :
    ClaimTimersRun t := by
  rcases hp.claimWindow_eq with hw | ⟨w, rfl⟩
  · intro hwindow e' he' o d
    rw [hw] at hwindow
    rcases hp.entries with ⟨f, hf, hsub⟩ | ⟨a, w, p, k, -, -, -, hentries⟩
    · obtain ⟨e, he, rfl⟩ := List.mem_map.1 (hsub.subset he')
      exact (hf e).claimed hwindow (h hwindow e he) o d
    · rw [hentries] at he'
      rcases List.mem_append.1 he' with he' | he'
      · exact h hwindow e' he' o d
      · rw [List.mem_singleton.1 he']
        exact fun hstate => nomatch hstate
  · exact h.writeClaimWindow w

theorem ClaimTimersRun.lowerTimers {s : State} (h : ClaimTimersRun s) : ClaimTimersRun (lowerTimers s) := by
  intro hwindow e' he' o d
  obtain ⟨e, he, rfl⟩ := List.mem_map.1 he'
  have hold := h hwindow e he
  unfold tickEntry
  split
  · exact fun hstate => nomatch hstate
  · exact hold o d

/-- Settles O33: an entry becomes READY with a claim timer unless the window is 0, and the write that opens the window gives one to each
that has none. -/
theorem stepKeepsClaimTimersRunning : Obligations.StepKeepsClaimTimersRunning := by
  have hkept : KeptByEvents ClaimTimersRun :=
    .of_core (fun hc h => by rw [ClaimTimersRun, hc.entries, hc.claimWindow]; exact h) (fun _ _ he => nomatch he) ClaimTimersRun.part
      (fun _ _ _ h => h) (keep_tick ClaimTimersRun.part ClaimTimersRun.lowerTimers)
  exact fun _ _ hs hstep => hkept.step hs hstep

end Sys2Proof.Machine
end

section
/-! Parts sorted by what they do to the work of a branch: a small part leaves every entry's status and changes a column by one move of its
own; the others (`Shift`) are the eight that look at a drain or change which entries are PENDING or ISSUED. -/

-- One theorem at a time: elaborated side by side, the proofs of this text need more memory than its check allows.
set_option Elab.async false

namespace Sys2Proof.Machine

/-! ### Status -/

/-- An entry PENDING or ISSUED: the work that a drain waits for (R138). -/
def Works (e : Entry) : Prop := isPending e = true ∨ isIssued e = true

/-- Slot, branch, node and status stay. -/
structure SameStatus (e e' : Entry) : Prop where
  slot : e'.slot = e.slot
  branch : e'.branch = e.branch
  node : e'.node = e.node
  pending : isPending e' = isPending e
  issued : isIssued e' = isIssued e

theorem SameStatus.refl (e : Entry) : SameStatus e e := ⟨rfl, rfl, rfl, rfl, rfl⟩

theorem SameStatus.works {e e' : Entry} (h : SameStatus e e') : Works e' ↔ Works e := by
  rw [Works, Works, h.pending, h.issued]

theorem sameStatus_lowerAhead (x : Branch) (n : Nat) (e : Entry) : SameStatus e (lowerAhead x n e) := by
  unfold lowerAhead
  split
  · exact ⟨rfl, rfl, rfl, rfl, rfl⟩
  · exact .refl e

theorem sameStatus_giveTimer (n : Nat) (e : Entry) : SameStatus e (giveTimer n e) := by
  unfold giveTimer
  split
  next hs => exact ⟨rfl, rfl, rfl, by simp [isPending, hs], by simp [isIssued, hs]⟩
  next => exact .refl e

theorem sameStatus_markAbandoned (m : Master) (e : Entry) : SameStatus e (markAbandoned m e) := by
  unfold markAbandoned
  split
  next h =>
    rw [Bool.and_eq_true, isIssued_iff] at h
    obtain ⟨-, ab, hs⟩ := h
    exact ⟨rfl, rfl, rfl, by simp [isPending, hs], by simp [isIssued, hs]⟩
  next => exact .refl e

theorem sameStatus_tickEntry (e : Entry) : SameStatus e (tickEntry e) := by
  unfold tickEntry
  split
  next hs => exact ⟨rfl, rfl, rfl, by simp [isPending, hs], by simp [isIssued, hs]⟩
  next => exact .refl e

/-! ### Small parts -/

/-- A column under a small part, on a branch that is looked at or not. -/
inductive SmallColumn (looked : Prop) (u : BranchUnit) : BranchUnit → Prop
  | same : SmallColumn looked u u
  | alone {v : BranchUnit} (h : Alone u v) : SmallColumn looked u v
  | opens {v : BranchUnit} (h : Opens u v) (looks : looked) : SmallColumn looked u v
  | depart (idle : u.headInFlight = false) (looks : looked) : SmallColumn looked u { u with queue := u.queue.tail, headInFlight := false }
  | finishPosted (tx : Txn) (current : currentTxn u.engine = some tx) (source : tx.source = .posted) (looks : looked) :
      SmallColumn looked u { u with engine := .idle, queue := u.queue.tail, headInFlight := false }

/-- How many posted records branch `x` holds. -/
def fill (s : State) (x : Branch) : Nat := (unitOf s x).queue.length

/-- A part that leaves every entry's status; where a queue gets shorter, the posted-ahead counts of its branch fall with it (R70). -/
structure Small (D : Finset Branch) (s t : State) : Prop where
  entries : ∃ f : Entry → Entry, t.entries = s.entries.map f ∧ (∀ e, SameStatus e (f e)) ∧
    ∀ e, isPending e = true → (f e).postedAhead ≤ e.postedAhead - (fill s e.branch - fill t e.branch)
  column : ∀ y, SmallColumn (y ∈ D) (unitOf s y) (unitOf t y)

theorem Alone.fill_le {u v : BranchUnit} (h : Alone u v) : u.queue.length ≤ v.queue.length := by
  cases h with
  | node n f => simp
  | post r => simp
  | counts q fill => exact fill.ge
  | _ => exact le_rfl

theorem Opens.fill_eq {u v : BranchUnit} (h : Opens u v) : v.queue = u.queue := by cases h <;> rfl

/-- A column that does not move, or moves with no record leaving its queue. -/
def Still (looked : Prop) (u v : BranchUnit) : Prop := v = u ∨ Alone u v ∨ (Opens u v ∧ looked)

theorem Small.of_still {D : Finset Branch} {s t : State} {f : Entry → Entry} (hmap : t.entries = s.entries.map f)
    (hstatus : ∀ e, SameStatus e (f e)) (hahead : ∀ e, (f e).postedAhead = e.postedAhead)
    (hcolumn : ∀ y, Still (y ∈ D) (unitOf s y) (unitOf t y)) : Small D s t := by
  refine ⟨⟨f, hmap, hstatus, fun e _ => ?_⟩, fun y => ?_⟩
  · have hfill : fill s e.branch ≤ fill t e.branch := by
      unfold fill
      rcases hcolumn e.branch with h | h | ⟨h, -⟩
      · rw [h]
      · exact h.fill_le
      · rw [h.fill_eq]
    rw [hahead, Nat.sub_eq_zero_of_le hfill, Nat.sub_zero]
  · rcases hcolumn y with h | h | ⟨h, looked⟩
    · rw [h]; exact .same
    · exact .alone h
    · exact .opens h looked

/-- The entries as they are. -/
theorem Small.of_same_entries {D : Finset Branch} {s t : State} (h : t.entries = s.entries)
    (hcolumn : ∀ y, Still (y ∈ D) (unitOf s y) (unitOf t y)) : Small D s t :=
  .of_still (f := id) (by rw [List.map_id, h]) .refl (fun _ => rfl) hcolumn

/-- Departures: the PENDING entries of the branch count one record fewer ahead (R69, R70). -/
theorem Small.of_departure {D : Finset Branch} {s t : State} {x : Branch} {f : BranchUnit → BranchUnit}
    (hmap : t.entries = s.entries.map (lowerAhead x 1)) (hqueue : (f (unitOf s x)).queue = (unitOf s x).queue.tail)
    (hcolumn : ∀ y, unitOf t y = if y = x then f (unitOf s y) else unitOf s y)
    (hsmall : SmallColumn (x ∈ D) (unitOf s x) (f (unitOf s x))) : Small D s t := by
  refine ⟨⟨_, hmap, sameStatus_lowerAhead x 1, fun e hp => ?_⟩, fun y => ?_⟩
  · have hcol := hcolumn e.branch
    unfold fill lowerAhead
    by_cases hb : e.branch = x
    · rw [if_pos hb] at hcol
      rw [hcol, hb, hqueue, List.length_tail, hp, if_pos (by simp)]
      simp only
      omega
    · rw [if_neg hb] at hcol
      rw [hcol, if_neg (by simp [hb])]
      omega
  · rw [hcolumn]
    split
    next hy => subst hy; exact hsmall
    next => exact .same

theorem still_of_onUnit {looked : Prop} {x y : Branch} {s : State} {f : BranchUnit → BranchUnit}
    (h : y = x → Still looked (unitOf s y) (f (unitOf s y))) : Still looked (unitOf s y) (unitOf (onUnit x f s) y) := by
  rw [unitOf_onUnit]
  split
  next hy => exact h hy
  next => exact .inl rfl

/-- The parts that are not small. -/
inductive Shift : Finset Branch × State → Finset Branch × State → Prop
  | look {D : Finset Branch} {s : State} (x : Branch) : Shift (D, s) (insert x D, s)
  | settle {D : Finset Branch} {s : State} (x : Branch) : Shift (D, s) (D.erase x, completeDrain x s)
  | free {D : Finset Branch} {s : State} (e : Entry) (live : e ∈ s.entries) (unissued : isIssued e = false)
      (looked : isPending e = true → e.branch ∈ D) : Shift (D, s) (D, freeSlot e.slot s)
  | create {D : Finset Branch} {s t : State} (new : Entry) (entries : t.entries = s.entries ++ [new])
      (branches : t.branches = s.branches) (pending : isPending new = true) (node : new.node ≠ 0)
      (answers : nodeIsOffline (unitOf s new.branch) new.node = false) (active : (unitOf s new.branch).ctrl = .active)
      (ahead : new.postedAhead = (unitOf s new.branch).queue.length) : Shift (D, s) (D, t)
  | entry {D : Finset Branch} {s : State} (x : Branch) (e : Entry) (tx : Txn) (rate : LineRate) (may : MayChoose (unitOf s x))
      (live : e ∈ s.entries) (pending : isPending e = true) (branch : e.branch = x) (source : tx.source = .slot e.slot) :
      Shift (D, s) (D, startEntry x e.slot tx rate s)
  | finishSlot {D : Finset Branch} {s : State} (x : Branch) (tx : Txn) (k : Slot) (en : TxEnd)
      (current : currentTxn (unitOf s x).engine = some tx) (source : tx.source = .slot k) (looked : x ∈ D) :
      Shift (D, s) (D, endDeferred k en (disengage x s))
  | turn {D : Finset Branch} {s : State} (x : Branch) (n : Node) (op : Op) (node : n ≠ 0) (looked : x ∈ D) :
      Shift (D, s) (D, turnNode x n op s)
  | held {D : Finset Branch} {s : State} (x : Branch) (free : (unitOf s x).ctrl ≠ .held) : Shift (D, s) (D, holdColumn x s)

theorem isPending_newEntry (a : Access) (w : Width) (p : Aperture) (k : Slot) (s : State) : isPending (newEntry a w p k s) = true := rfl

theorem Part.small_or_shift {D E : Finset Branch} {s t : State} (h : Part (D, s) (E, t)) :
    (E = D ∧ Small D s t) ∨ Shift (D, s) (E, t) := by
  cases h with
  | port | knobs | refuse | pop | unwait | wait | resWindow => exact .inl ⟨rfl, .of_same_entries rfl fun _ => .inl rfl⟩
  | offer => exact .inl ⟨rfl, .of_same_entries (offer_entries _ _) fun y => .inl (unitOf_offer _ _ y)⟩
  | endReservation => exact .inl ⟨rfl, .of_same_entries (entries_endReservation _ _) fun y => .inl (unitOf_endReservation _ _ _)⟩
  | claimWindow w =>
    have hcolumn : ∀ y, Still (y ∈ D) (unitOf s y) (unitOf (writeClaimWindow w s) y) := fun y => .inl (unitOf_writeClaimWindow y s w)
    refine .inl ⟨rfl, ?_⟩
    by_cases hopens : s.claimWindow = 0 ∧ fieldOf w 0 12 ≠ 0
    · refine .of_still (f := giveTimer (fieldOf w 0 12 * Config.claimUnit)) ?_ (sameStatus_giveTimer _) (fun e => ?_) hcolumn
      · simp only [writeClaimWindow, if_pos hopens]
        rfl
      · rw [giveTimer_eq]
    · refine .of_same_entries ?_ hcolumn
      simp only [writeClaimWindow, if_neg hopens]
  | mark m =>
    refine .inl ⟨rfl, .of_still (f := markAbandoned m) rfl (sameStatus_markAbandoned m) (fun e => ?_) fun _ => .inl rfl⟩
    unfold markAbandoned
    split <;> rfl
  | alone x f h =>
    refine .inl ⟨rfl, .of_same_entries rfl fun y => still_of_onUnit ?_⟩
    rintro rfl
    exact .inr (.inl h)
  | opens x f h looked =>
    refine .inl ⟨rfl, .of_same_entries rfl fun y => still_of_onUnit ?_⟩
    rintro rfl
    exact .inr (.inr ⟨h, looked⟩)
  | depart x idle looked =>
    exact .inl ⟨rfl, .of_departure (f := fun u => { u with queue := u.queue.tail, headInFlight := false }) rfl rfl
      (fun y => unitOf_departHead x y s) (.depart idle looked)⟩
  | finishPosted x tx current source looked =>
    refine .inl ⟨rfl, .of_departure (x := x)
      (f := fun u => { u with engine := .idle, queue := u.queue.tail, headInFlight := false }) rfl rfl (fun y => ?_)
      (.finishPosted tx current source looked)⟩
    rw [unitOf_departHead, unitOf_disengage]
    split <;> rfl
  | free e live unissued looked => exact .inr (.free e live unissued looked)
  | create a w p k _ node answers active _ =>
    exact .inr (.create _ rfl rfl (isPending_newEntry a w p k s) node answers active rfl)
  | entry x e tx rate may live pending branch source _ => exact .inr (.entry x e tx rate may live pending branch source)
  | finishSlot x tx k en current source looked => exact .inr (.finishSlot x tx k en current source looked)
  | turn x n op node looked => exact .inr (.turn x n op node looked)
  | held x free => exact .inr (.held x free)
  | look x => exact .inr (.look x)
  | settle x => exact .inr (.settle x)

/-! ### The entries under the other parts -/

section Entries
variable {s : State}

theorem mem_freeSlot {k : Slot} {e : Entry} : e ∈ (freeSlot k s).entries ↔ e ∈ s.entries ∧ e.slot ≠ k := by
  rw [freeSlot_frame, List.mem_filter, decide_eq_true_eq]

/-- With no slot held twice, two entries in one slot are one. -/
theorem TableOk.eq_of_slot (h : TableOk s) {e f : Entry} (he : e ∈ s.entries) (hf : f ∈ s.entries) (hslot : e.slot = f.slot) :
    e = f :=
  List.inj_on_of_nodup_map h.slots_nodup he hf hslot

theorem TableOk.entryAt (h : TableOk s) {e : Entry} (he : e ∈ s.entries) : entryAt s e.slot = some e :=
  entryAt_of_mem h.slots_nodup he

/-- The entry handed to the engine, and every other as it was. -/
theorem TableOk.mem_startEntry (h : TableOk s) {x : Branch} {e f : Entry} {tx : Txn} {rate : LineRate} (he : e ∈ s.entries) :
    f ∈ (startEntry x e.slot tx rate s).entries ↔ f = { e with state := .issued false } ∨ (f ∈ s.entries ∧ f ≠ e) := by
  simp only [startEntry, onEntries_entries, onUnit_entries, List.mem_map]
  constructor
  · rintro ⟨g, hg, rfl⟩
    split
    next hslot => exact .inl (by rw [h.eq_of_slot hg he hslot])
    next hslot => exact .inr ⟨hg, fun heq => hslot (heq ▸ rfl)⟩
  · rintro (rfl | ⟨hf, hne⟩)
    · exact ⟨e, he, if_pos rfl⟩
    · exact ⟨f, hf, if_neg fun hslot => hne (h.eq_of_slot hf he hslot)⟩

/-- The end of a deferred transaction: the ISSUED entry of its slot ends or becomes READY, every other entry stays. -/
theorem TableOk.mem_endDeferred (h : TableOk s) {e f : Entry} {en : TxEnd} (he : e ∈ s.entries) (hi : isIssued e = true) :
    f ∈ (Machine.endDeferred e.slot en s).entries →
      (f ∈ s.entries ∧ f ≠ e) ∨ (f.slot = e.slot ∧ f.branch = e.branch ∧ f.node = e.node ∧ isReady f = true) := by
  obtain ⟨ab, hs⟩ := (isIssued_iff e).1 hi
  rw [Machine.endDeferred, h.entryAt he]
  cases ab <;> simp only [hs]
  · rw [onEntries_entries, List.mem_map]
    rintro ⟨g, hg, rfl⟩
    split
    next hslot =>
      rw [h.eq_of_slot hg he hslot]
      exact .inr ⟨rfl, rfl, rfl, rfl⟩
    next hslot => exact .inl ⟨hg, fun heq => hslot (heq ▸ rfl)⟩
  · rw [mem_freeSlot]
    rintro ⟨hf, hslot⟩
    exact .inl ⟨hf, fun heq => hslot (heq ▸ rfl)⟩

theorem TableOk.mem_endDeferred_of_ne (h : TableOk s) {e f : Entry} {en : TxEnd} (he : e ∈ s.entries) (hi : isIssued e = true)
    (hf : f ∈ s.entries) (hne : f ≠ e) : f ∈ (Machine.endDeferred e.slot en s).entries := by
  obtain ⟨ab, hs⟩ := (isIssued_iff e).1 hi
  have hslot : f.slot ≠ e.slot := fun heq => hne (h.eq_of_slot hf he heq)
  rw [Machine.endDeferred, h.entryAt he]
  cases ab <;> simp only [hs]
  · rw [onEntries_entries, List.mem_map]
    exact ⟨f, hf, if_neg hslot⟩
  · exact mem_freeSlot.2 ⟨hf, hslot⟩

/-- The entries of a part whose entries lie in no freed slot. -/
theorem TableOk.mem_freeSlotsWhere (h : TableOk s) (p : Entry → Bool) {f : Entry} :
    f ∈ (Machine.freeSlotsWhere p s).entries ↔ f ∈ s.entries ∧ p f = false := by
  rw [(freeSlotsWhere_spec p h.slots_nodup h.waiting_nodup).2, List.mem_filter, Bool.not_eq_true']

theorem heldEntry_other {x : Branch} {e : Entry} (hb : e.branch ≠ x) (n : Nat) (c : Option Nat) : heldEntry x n c e = e := by
  simp [heldEntry, hb]

/-- The HELD entry leaves no work on its branch, and every entry of another branch as it was. -/
theorem TableOk.mem_holdColumn (h : TableOk s) {x : Branch} {f : Entry} (hf : f ∈ (holdColumn x s).entries) :
    (f ∈ s.entries ∧ f.branch ≠ x) ∨ (f.branch = x ∧ isReady f = true) := by
  have hok : TableOk (Machine.onEntries (heldEntry x (unitOf s x).queue.length (claimStart s)) (Machine.onUnit x heldUnit s)) :=
    (h.onUnit x _).onEntries (heldEntry_slot x _ _)
  obtain ⟨hmem, hfreed⟩ := (hok.mem_freeSlotsWhere (freedByHeld x)).1 hf
  rw [onEntries_entries, onUnit_entries, List.mem_map] at hmem
  obtain ⟨e, he, rfl⟩ := hmem
  by_cases hb : e.branch = x
  · right
    have hbranch : (heldEntry x (unitOf s x).queue.length (claimStart s) e).branch = x := by
      unfold heldEntry lowerAhead makeReady
      split_ifs <;> exact hb
    refine ⟨hbranch, ?_⟩
    rw [freedByHeld, hbranch, decide_eq_true rfl, Bool.true_and] at hfreed
    unfold heldEntry at hfreed ⊢
    split at hfreed
    next hcond => rw [if_pos hcond]; rfl
    next hcond =>
      rw [if_neg hcond]
      unfold isPending isIssued isAbandoned at hcond
      unfold isAbandoned at hfreed
      unfold isReady
      cases hs : e.state <;> simp_all
  · rw [heldEntry_other hb]
    exact .inl ⟨he, hb⟩

theorem TableOk.mem_holdColumn_of_other (h : TableOk s) {x : Branch} {f : Entry} (hf : f ∈ s.entries) (hb : f.branch ≠ x) :
    f ∈ (holdColumn x s).entries := by
  have hok : TableOk (Machine.onEntries (heldEntry x (unitOf s x).queue.length (claimStart s)) (Machine.onUnit x heldUnit s)) :=
    (h.onUnit x _).onEntries (heldEntry_slot x _ _)
  refine (hok.mem_freeSlotsWhere (freedByHeld x)).2 ⟨?_, by simp [freedByHeld, hb]⟩
  rw [onEntries_entries, onUnit_entries, List.mem_map]
  exact ⟨f, hf, heldEntry_other hb _ _⟩

theorem not_works_of_ready {e : Entry} (h : isReady e = true) : ¬ Works e := by
  obtain ⟨hi, hp⟩ := not_pending_of_ready h
  rintro (hw | hw)
  · rw [hp] at hw; cases hw
  · rw [hi] at hw; cases hw

theorem releasedByTurn_cases (x : Branch) (n : Node) (c : Option Nat) (e : Entry) :
    (releasedByTurn x n c e = e ∧ ¬ (e.branch = x ∧ e.node = n ∧ isPending e = true)) ∨
    (e.branch = x ∧ isPending e = true ∧ (releasedByTurn x n c e).slot = e.slot ∧ isReady (releasedByTurn x n c e) = true) := by
  unfold releasedByTurn
  split
  next h =>
    rw [Bool.and_eq_true, Bool.and_eq_true, decide_eq_true_eq] at h
    exact .inr ⟨h.1.1, h.2, rfl, rfl⟩
  next h =>
    rw [Bool.and_eq_true, Bool.and_eq_true, decide_eq_true_eq, decide_eq_true_eq, and_assoc] at h
    exact .inl ⟨rfl, h⟩

end Entries

end Sys2Proof.Machine
end

section
/-! What PENDING entries and their branches keep: PENDING entries name nodes that are not OFFLINE (R9), posted-ahead counts stay within the
fill (R70), and every branch's column keeps its shape (R65, R96, R140, R142). -/

-- One theorem at a time: elaborated side by side, the proofs of this text need more memory than its check allows.
set_option Elab.async false

namespace Sys2Proof.Machine

/-! ### PENDING entries -/

/-- A drain completion writes the state of its branch alone. -/
theorem unitOf_completeDrain (x y : Branch) (s : State) : ∃ c, unitOf (completeDrain x s) y = { unitOf s y with ctrl := c } := by
  by_cases hd : (unitOf s x).ctrl = .draining ∧ Drained s x
  · rw [completeDrain_of_drained hd.1 hd.2, unitOf_drainedState]
    split <;> exact ⟨_, rfl⟩
  · rw [completeDrain_of_not hd]
    exact ⟨_, rfl⟩

/-- A node turns OFFLINE by `turnNode` alone. -/
theorem nodeIsOffline_onNode {u : BranchUnit} {n : Node} {f : NodeRecord → NodeRecord}
    (hf : n ≠ 0 → (f (nodeOf u n)).state = .offline → (nodeOf u n).state = .offline) {k : Node}
    (h : nodeIsOffline (onNode n f u) k = true) : nodeIsOffline u k = true := by
  have hk : k ≠ 0 := by
    rintro rfl
    simp [nodeIsOffline] at h
  rw [nodeIsOffline_iff hk] at h ⊢
  by_cases hkn : k = n
  · subst hkn
    rw [nodeOf_onNode_same u hk] at h
    exact hf hk h
  · rwa [nodeOf_onNode_other u hk hkn] at h

theorem SmallColumn.offline {looked : Prop} {u v : BranchUnit} (h : SmallColumn looked u v) {n : Node}
    (hv : nodeIsOffline v n = true) : nodeIsOffline u n = true := by
  cases h with
  | alone ha =>
    cases ha with
    | node k f _ offline => exact nodeIsOffline_onNode offline hv
    | _ => exact hv
  | opens ho => cases ho <;> exact hv
  | _ => exact hv

/-- A PENDING entry after a part, and the entry it was. -/
structure StaysPending (s t : State) (e e' : Entry) : Prop where
  live : e ∈ s.entries
  pending : isPending e = true
  branch : e'.branch = e.branch
  node : e'.node = e.node
  ahead : e'.postedAhead ≤ e.postedAhead - (fill s e.branch - fill t e.branch)
  offline : nodeIsOffline (unitOf t e.branch) e.node = true → nodeIsOffline (unitOf s e.branch) e.node = true

/-- A PENDING entry that joined the table in a part. -/
structure JoinsPending (t : State) (e' : Entry) : Prop where
  node : e'.node ≠ 0
  answers : nodeIsOffline (unitOf t e'.branch) e'.node = false
  ahead : e'.postedAhead = fill t e'.branch

theorem StaysPending.same {s t : State} {e : Entry} (live : e ∈ s.entries) (pending : isPending e = true)
    (fills : fill s e.branch ≤ fill t e.branch)
    (offline : nodeIsOffline (unitOf t e.branch) e.node = true → nodeIsOffline (unitOf s e.branch) e.node = true) :
    StaysPending s t e e :=
  ⟨live, pending, rfl, rfl, by rw [Nat.sub_eq_zero_of_le fills, Nat.sub_zero], offline⟩

/-- The entries that the end of a deferred transaction leaves PENDING were so before. -/
theorem mem_of_endDeferred {s : State} {k : Slot} {en : TxEnd} {e : Entry} (he : e ∈ (endDeferred k en s).entries)
    (hready : isReady e = false) : e ∈ s.entries := by
  unfold endDeferred at he
  split at he
  · exact he
  · split at he
    · exact (mem_freeSlot.1 he).1
    · obtain ⟨f, hf, rfl⟩ := List.mem_map.1 he
      split
      next hslot => rw [if_pos hslot] at hready; cases hready
      next => exact hf
    · exact he

theorem not_ready_of_pending {e : Entry} (h : isPending e = true) : isReady e = false := by
  rw [isPending_iff] at h
  simp [isReady, h]

theorem not_ready_of_issued {e : Entry} (h : isIssued e = true) : isReady e = false := by
  obtain ⟨ab, hs⟩ := (isIssued_iff e).1 h
  simp [isReady, hs]

/-- The entries that HELD leaves PENDING were so before, on another branch. -/
theorem mem_of_holdColumn {s : State} {x : Branch} {e : Entry} (he : e ∈ (holdColumn x s).entries) (hp : isPending e = true) :
    e ∈ s.entries ∧ e.branch ≠ x := by
  obtain ⟨f, hf, rfl⟩ := List.mem_map.1 ((entries_freeSlots_sublist _ _).subset he)
  unfold heldEntry at hp ⊢
  split at hp
  · rw [isPending_iff] at hp
    unfold lowerAhead makeReady at hp
    split at hp <;> cases hp
  next hcond =>
    rw [if_neg hcond]
    refine ⟨hf, fun hb => hcond ?_⟩
    simp [hb, hp]

theorem Shift.pending {D E : Finset Branch} {s t : State} (h : Shift (D, s) (E, t)) {e' : Entry} (he : e' ∈ t.entries)
    (hp : isPending e' = true) : (∃ e, StaysPending s t e e') ∨ JoinsPending t e' := by
  cases h with
  | look => exact .inl ⟨e', .same he hp le_rfl id⟩
  | settle x =>
    rw [entries_completeDrain] at he
    obtain ⟨c, hunit⟩ := unitOf_completeDrain x e'.branch s
    exact .inl ⟨e', .same he hp (by rw [fill, fill, hunit]) fun ho => by rwa [hunit] at ho⟩
  | free e => exact .inl ⟨e', .same (mem_freeSlot.1 he).1 hp (by simp [fill]) fun ho => by rwa [unitOf_freeSlot] at ho⟩
  | create new entries branches pending node answers active ahead =>
    have hunit : ∀ y, unitOf t y = unitOf s y := fun y => by rw [unitOf, branches]; rfl
    rw [entries] at he
    rcases List.mem_append.1 he with he | he
    · exact .inl ⟨e', .same he hp (by rw [fill, fill, hunit]) fun ho => by rwa [hunit] at ho⟩
    · obtain rfl := List.mem_singleton.1 he
      exact .inr ⟨node, by rw [hunit]; exact answers, by rw [fill, hunit]; exact ahead⟩
  | entry x e tx rate =>
    obtain ⟨f, hf, rfl⟩ := List.mem_map.1 he
    split at hp
    · cases hp
    next hslot =>
      rw [if_neg hslot]
      refine .inl ⟨f, .same hf hp ?_ fun ho => ?_⟩
      · rw [fill, fill, unitOf_startEntry]
        split <;> exact le_rfl
      · rw [unitOf_startEntry] at ho
        split at ho <;> exact ho
  | finishSlot x tx k en =>
    refine .inl ⟨e', .same (mem_of_endDeferred (s := disengage x s) he (not_ready_of_pending hp)) hp ?_ fun ho => ?_⟩
    · rw [fill, fill, unitOf_endDeferred, unitOf_disengage]
      split <;> exact le_rfl
    · rw [unitOf_endDeferred, unitOf_disengage] at ho
      split at ho <;> exact ho
  | turn x n op node =>
    obtain ⟨f, hf, rfl⟩ := List.mem_map.1 he
    rcases releasedByTurn_cases x n (claimStart s) f with ⟨heq, hnot⟩ | ⟨-, -, -, hready⟩
    · rw [heq] at hp ⊢
      refine .inl ⟨f, .same hf hp ?_ fun ho => ?_⟩
      · rw [fill, fill, unitOf_turnNode]
        split
        next hb => rw [onNode_queue]
        next => exact le_rfl
      · rw [unitOf_turnNode] at ho
        split at ho
        next hb =>
          have hne : f.node ≠ n := fun hn => hnot ⟨hb, hn, hp⟩
          have h0 : f.node ≠ 0 := by
            intro h0
            simp [nodeIsOffline, h0] at ho
          rw [nodeIsOffline_iff h0, nodeOf_onNode_other _ h0 hne] at ho
          exact (nodeIsOffline_iff h0).2 ho
        next => exact ho
    · rw [not_ready_of_pending hp] at hready
      cases hready
  | held x =>
    obtain ⟨hs, hb⟩ := mem_of_holdColumn he hp
    have hunit : unitOf (holdColumn x s) e'.branch = unitOf s e'.branch := by rw [unitOf_holdColumn, if_neg hb]
    exact .inl ⟨e', .same hs hp (by rw [fill, fill, hunit]) fun ho => by rwa [hunit] at ho⟩

theorem Part.pending {D E : Finset Branch} {s t : State} (h : Part (D, s) (E, t)) {e' : Entry} (he : e' ∈ t.entries)
    (hp : isPending e' = true) : (∃ e, StaysPending s t e e') ∨ JoinsPending t e' := by
  rcases h.small_or_shift with ⟨-, ⟨f, hmap, hstatus, hahead⟩, hcolumn⟩ | hshift
  · rw [hmap] at he
    obtain ⟨e, hlive, rfl⟩ := List.mem_map.1 he
    have hsame := hstatus e
    have hpe : isPending e = true := hsame.pending ▸ hp
    exact .inl ⟨e, hlive, hpe, hsame.branch, hsame.node, hahead e hpe, (hcolumn e.branch).offline⟩
  · exact hshift.pending he hp

theorem EntryMove.node_eq {s : State} {e e' : Entry} (h : EntryMove s e e') : e'.node = e.node := by
  cases h with
  | timer n => rw [giveTimer_eq]
  | _ => rfl

theorem PendingNodesAnswer.part {D E : Finset Branch} {s t : State} (hp : Part (D, s) (E, t)) (h : PendingNodesAnswer s) :
    PendingNodesAnswer t := by
  refine fun e' he' => ⟨?_, fun hpending => ?_⟩
  · rcases hp.entries with ⟨f, hf, hsub⟩ | ⟨a, w, p, k, -, hnode, -, hentries⟩
    · obtain ⟨e, he, rfl⟩ := List.mem_map.1 (hsub.subset he')
      rw [(hf e).node_eq]
      exact (h e he).1
    · rw [hentries] at he'
      rcases List.mem_append.1 he' with he | he
      · exact (h e' he).1
      · rw [List.mem_singleton.1 he]
        exact hnode
  · rcases hp.pending he' hpending with ⟨e, hstays⟩ | hjoins
    · rw [hstays.branch, hstays.node, ← Bool.not_eq_true]
      intro ho
      have hanswers := (h e hstays.live).2 hstays.pending
      rw [hstays.offline ho] at hanswers
      cases hanswers
    · exact hjoins.answers

theorem PendingNodesAnswer.lowerTimers {s : State} (h : PendingNodesAnswer s) : PendingNodesAnswer (lowerTimers s) := by
  intro e' he'
  obtain ⟨e, he, rfl⟩ := List.mem_map.1 he'
  have hsame := sameStatus_tickEntry e
  rw [hsame.node, hsame.branch, hsame.pending, unitOf_lowerTimers]
  exact h e he

theorem PostedAheadBounded.part {D E : Finset Branch} {s t : State} (hp : Part (D, s) (E, t)) (h : PostedAheadBounded s) :
    PostedAheadBounded t := by
  intro e' he' hpending
  rcases hp.pending he' hpending with ⟨e, hstays⟩ | hjoins
  · have hold := h e hstays.live hstays.pending
    have hnew := hstays.ahead
    rw [hstays.branch]
    unfold fill at hnew
    omega
  · exact hjoins.ahead.le

theorem PostedAheadBounded.lowerTimers {s : State} (h : PostedAheadBounded s) : PostedAheadBounded (lowerTimers s) := by
  intro e' he' hpending
  obtain ⟨e, he, rfl⟩ := List.mem_map.1 he'
  have hsame := sameStatus_tickEntry e
  rw [hsame.pending] at hpending
  rw [hsame.branch, unitOf_lowerTimers, tickEntry_eq]
  exact h e he hpending

theorem unitOf_release (x y : Branch) (s : State) :
    unitOf (onUnit x (fun u => { u with ctrl := .quiesced, engine := .idle }) s) y =
      { unitOf s y with ctrl := (unitOf (onUnit x (fun u => { u with ctrl := .quiesced, engine := .idle }) s) y).ctrl,
                        engine := (unitOf (onUnit x (fun u => { u with ctrl := .quiesced, engine := .idle }) s) y).engine } := by
  rw [unitOf_onUnit]
  split <;> rfl

theorem keptByEvents_pendingNodesAnswer : KeptByEvents PendingNodesAnswer :=
  .of_core (fun hc h => by
      unfold PendingNodesAnswer unitOf
      rw [hc.entries, hc.branches]
      exact h)
    (fun _ he => nomatch he) PendingNodesAnswer.part
    (fun x _ _ h e he => by
      rw [unitOf_release]
      exact h e he)
    (keep_tick PendingNodesAnswer.part PendingNodesAnswer.lowerTimers)

theorem keptByEvents_postedAheadBounded : KeptByEvents PostedAheadBounded :=
  .of_core (fun hc h => by
      unfold PostedAheadBounded unitOf
      rw [hc.entries, hc.branches]
      exact h)
    (fun _ he => nomatch he) PostedAheadBounded.part
    (fun x _ _ h e he => by
      rw [unitOf_release]
      exact h e he)
    (keep_tick PostedAheadBounded.part PostedAheadBounded.lowerTimers)

/-- Settles O29: a PENDING entry was one before, with no fewer records ahead and its node not OFFLINE, or joined the table so. -/
theorem stepKeepsPendingEntriesSound : Obligations.StepKeepsPendingEntriesSound :=
  ⟨fun _ _ hs hstep => keptByEvents_pendingNodesAnswer.step hs hstep,
    fun _ _ hs hstep => keptByEvents_postedAheadBounded.step hs hstep⟩

end Sys2Proof.Machine
end

section
/-! The shape of a branch's column in every branch state (R65, R96, R140, R142): what the column says of itself (`Shape`), and that the
branch of a PENDING or ISSUED entry is ACTIVE or DRAINING (`WorkPlaced`). -/

-- One theorem at a time: elaborated side by side, the proofs of this text need more memory than its check allows.
set_option Elab.async false

namespace Sys2Proof.Machine

/-! ### The column itself -/

/-- The shape of a column, as far as the column shows it. -/
structure Shape (u : BranchUnit) : Prop where
  fill : u.queue.length ≤ 8
  off_iff_held : u.engine = .off ↔ u.ctrl = .held
  head_exists : u.headInFlight = true → u.queue ≠ []
  held_empty : u.ctrl = .held → u.queue = [] ∧ u.probeSet = [] ∧ u.park = none
  quiet_empty : u.ctrl = .quiesced → u.queue = [] ∧ u.engine = .idle ∧ u.park = none

/-- A branch that is ACTIVE or DRAINING: its engine may have a transaction. -/
def Engaged (u : BranchUnit) : Prop := u.ctrl = .active ∨ u.ctrl = .draining

theorem Engaged.not_held {u : BranchUnit} (h : Engaged u) : u.ctrl ≠ .held := by
  rcases h with h | h <;> rw [h] <;> exact fun hc => nomatch hc

theorem Engaged.not_quiesced {u : BranchUnit} (h : Engaged u) : u.ctrl ≠ .quiesced := by
  rcases h with h | h <;> rw [h] <;> exact fun hc => nomatch hc

/-- A column with a transaction, current or parked, is engaged. -/
theorem Shape.engaged {u : BranchUnit} (h : Shape u) (hwork : (∃ tx, currentTxn u.engine = some tx) ∨ u.park ≠ none ∨ u.queue ≠ []) :
    Engaged u := by
  cases hc : u.ctrl with
  | active => exact .inl hc
  | draining => exact .inr hc
  | quiesced =>
    obtain ⟨hq, he, hp⟩ := h.quiet_empty hc
    rw [he] at hwork
    rcases hwork with ⟨tx, htx⟩ | hw | hw
    · cases htx
    · exact absurd hp hw
    · exact absurd hq hw
  | held =>
    obtain ⟨hq, -, hp⟩ := h.held_empty hc
    rw [h.off_iff_held.2 hc] at hwork
    rcases hwork with ⟨tx, htx⟩ | hw | hw
    · cases htx
    · exact absurd hp hw
    · exact absurd hq hw

/-- On an engaged branch the shape asks for no more than the fill, an engine not OFF and a head where one is in flight. -/
theorem Shape.of_engaged {u : BranchUnit} (h : Engaged u) (fill : u.queue.length ≤ 8) (on : u.engine ≠ .off)
    (head : u.headInFlight = true → u.queue ≠ []) : Shape u :=
  ⟨fill, ⟨fun he => absurd he on, fun hc => absurd hc h.not_held⟩, head, fun hc => absurd hc h.not_held,
    fun hc => absurd hc h.not_quiesced⟩

/-- An engaged column whose engine moves on with the queue as it is. -/
theorem Shape.move {u v : BranchUnit} (h : Shape u) (engaged : Engaged u) (hctrl : v.ctrl = u.ctrl) (on : v.engine ≠ .off)
    (hqueue : v.queue = u.queue) (hhead : v.headInFlight = u.headInFlight) : Shape v :=
  .of_engaged (by rwa [Engaged, hctrl]) (hqueue ▸ h.fill) on (by rw [hqueue, hhead]; exact h.head_exists)

theorem Shape.onNode {u : BranchUnit} (h : Shape u) (n : Node) (f : NodeRecord → NodeRecord) : Shape (onNode n f u) := by
  refine ⟨?_, ?_, ?_, ?_, ?_⟩ <;> simp only [onNode_queue, onNode_engine, onNode_ctrl, onNode_headInFlight, onNode_probeSet, onNode_park]
  · exact h.fill
  · exact h.off_iff_held
  · exact h.head_exists
  · exact h.held_empty
  · exact h.quiet_empty

theorem Alone.shape {u v : BranchUnit} (ha : Alone u v) (h : Shape u) : Shape v := by
  have hcur : ∀ {tx : Txn}, currentTxn u.engine = some tx → Engaged u := fun hc => h.engaged (.inl ⟨_, hc⟩)
  cases ha with
  | node n f => exact h.onNode n f
  | post r room active =>
    have hengaged : Engaged u := .inl active
    refine .of_engaged hengaged ?_ (fun he => hengaged.not_held (h.off_iff_held.1 he)) fun _ hnil => ?_
    · simp only [List.length_append, List.length_singleton]
      omega
    · cases List.append_eq_nil_iff.1 hnil |>.2
  | settings | receiver => exact ⟨h.fill, h.off_iff_held, h.head_exists, h.held_empty, h.quiet_empty⟩
  | probe n node free => exact ⟨h.fill, h.off_iff_held, h.head_exists, fun hc => absurd hc free, h.quiet_empty⟩
  | resume paused =>
    refine .of_engaged (.inl rfl) h.fill (fun he => ?_) h.head_exists
    have hheld := h.off_iff_held.1 he
    rcases paused with hp | hp <;> rw [hheld] at hp <;> cases hp
  | startParked tx rate may => exact h.move may.2 rfl (fun he => nomatch he) rfl rfl
  | startProbe tx rate may => exact h.move may.2 rfl (fun he => nomatch he) rfl rfl
  | startPosted tx rate may _ _ head => exact .of_engaged may.2 h.fill (fun he => nomatch he) fun _ => head
  | await tx rate sent => exact h.move (hcur (tx := tx) (by rw [sent]; rfl)) rfl (fun he => nomatch he) rfl rfl
  | counts q fill =>
    have hnil : q = [] ↔ u.queue = [] := by rw [← List.length_eq_zero_iff, fill, List.length_eq_zero_iff]
    refine ⟨fill ▸ h.fill, h.off_iff_held, fun hf hq => h.head_exists hf (hnil.1 hq), fun hc => ?_, fun hc => ?_⟩
    · exact ⟨hnil.2 (h.held_empty hc).1, (h.held_empty hc).2⟩
    · exact ⟨hnil.2 (h.quiet_empty hc).1, (h.quiet_empty hc).2⟩
  | send tx tx' n rate current =>
    refine h.move (hcur (tx := tx) ?_) rfl (fun he => nomatch he) rfl rfl
    rcases current with hc | hc <;> rw [hc] <;> rfl
  | park tx tx' n current => exact h.move (hcur (tx := tx) (by rw [current]; rfl)) rfl (fun he => nomatch he) rfl rfl
  | backoff tx tx' n current => exact h.move (hcur (tx := tx) (by rw [current]; rfl)) rfl (fun he => nomatch he) rfl rfl
  | due tx n waits =>
    have hengaged : Engaged u := h.engaged (.inr (.inl (by rw [waits]; exact fun hn => nomatch hn)))
    exact h.move hengaged rfl (fun he => hengaged.not_held (h.off_iff_held.1 he)) rfl rfl

theorem Opens.shape {u v : BranchUnit} (ho : Opens u v) (h : Shape u) : Shape v := by
  cases ho with
  | resync tx current => exact h.move (h.engaged (.inl ⟨tx, current⟩)) rfl (fun he => nomatch he) rfl rfl
  | probe tx n current => exact h.move (h.engaged (.inl ⟨tx, current⟩)) rfl (fun he => nomatch he) rfl rfl
  | draining active =>
    have hengaged : Engaged u := .inl active
    exact .of_engaged (.inr rfl) h.fill (fun he => hengaged.not_held (h.off_iff_held.1 he)) h.head_exists

theorem shape_held {u : BranchUnit} : Shape (heldUnit u) :=
  ⟨Nat.zero_le 8, ⟨fun _ => rfl, fun _ => rfl⟩, (fun hf => nomatch hf), fun _ => ⟨rfl, rfl, rfl⟩, (fun hc => nomatch hc)⟩

theorem Shape.column {u v : BranchUnit} (hc : Column u v) (h : Shape u) : Shape v := by
  have htail : u.queue.tail.length ≤ 8 := (List.length_tail ▸ Nat.sub_le _ 1).trans h.fill
  cases hc with
  | same => exact h
  | alone ha => exact ha.shape h
  | opens ho => exact ho.shape h
  | depart idle =>
    refine ⟨htail, h.off_iff_held, (fun hf => nomatch hf), fun hc => ?_, fun hc => ?_⟩
    · exact ⟨by rw [(h.held_empty hc).1]; rfl, (h.held_empty hc).2⟩
    · exact ⟨by rw [(h.quiet_empty hc).1]; rfl, (h.quiet_empty hc).2⟩
  | entry tx k rate may => exact h.move may.2 rfl (fun he => nomatch he) rfl rfl
  | finishPosted tx current =>
    exact .of_engaged (h.engaged (.inl ⟨tx, current⟩)) htail (fun he => nomatch he) (fun hf => nomatch hf)
  | finishSlot tx k current => exact h.move (h.engaged (.inl ⟨tx, current⟩)) rfl (fun he => nomatch he) rfl rfl
  | turn n op => exact h.onNode n _
  | held => exact shape_held
  | complete draining queue park idle =>
    exact ⟨h.fill, ⟨fun he => (by rw [idle] at he; cases he), fun hc => nomatch hc⟩, h.head_exists, (fun hc => nomatch hc),
      fun _ => ⟨queue, idle, park⟩⟩

theorem Shape.release {u : BranchUnit} (h : Shape u) (hheld : u.ctrl = .held) : Shape { u with ctrl := .quiesced, engine := .idle } := by
  obtain ⟨hq, -, hp⟩ := h.held_empty hheld
  exact ⟨h.fill, ⟨(fun he => nomatch he), fun hc => nomatch hc⟩, h.head_exists, (fun hc => nomatch hc), fun _ => ⟨hq, rfl, hp⟩⟩

theorem Shape.tickUnit {u : BranchUnit} (h : Shape u) : Shape (tickUnit u) := by
  have hoff : tickEngine u.engine = .off ↔ u.engine = .off := by cases u.engine <;> simp [tickEngine]
  have hidle : u.engine = .idle → tickEngine u.engine = .idle := fun he => by rw [he]; rfl
  have hpark : u.park = none → tickPark u.park = none := fun hp => by rw [hp]; rfl
  refine ⟨h.fill, hoff.trans h.off_iff_held, h.head_exists, fun hc => ?_, fun hc => ?_⟩
  · obtain ⟨hq, hs, hp⟩ := h.held_empty hc
    exact ⟨hq, hs, hpark hp⟩
  · obtain ⟨hq, he, hp⟩ := h.quiet_empty hc
    exact ⟨hq, hidle he, hpark hp⟩

theorem shape_reset : Shape branchReset :=
  ⟨Nat.zero_le 8, ⟨fun _ => rfl, fun _ => rfl⟩, (fun hf => nomatch hf), fun _ => ⟨rfl, rfl, rfl⟩, (fun hc => nomatch hc)⟩

theorem keptByEvents_shape : KeptByEvents (fun s => ∀ x, Shape (unitOf s x)) :=
  keptByEvents_columns shape_reset Shape.column (fun hheld h => h.release hheld) (keep_tick_columns Shape.column Shape.tickUnit)

/-! ### The branches of the work -/

/-- The branch of every PENDING or ISSUED entry is engaged. -/
def WorkPlaced (s : State) : Prop := ∀ e ∈ s.entries, Works e → Engaged (unitOf s e.branch)

theorem workOf_eq_nil_iff (s : State) (x : Branch) : workOf s x = [] ↔ ∀ e ∈ s.entries, e.branch = x → ¬ Works e := by
  simp [workOf, Works, List.filter_eq_nil_iff]

theorem columnsOk_iff (s : State) : ColumnsOk s ↔ (∀ x, Shape (unitOf s x)) ∧ WorkPlaced s := by
  constructor
  · intro h
    refine ⟨fun x => ⟨(h x).fill, (h x).off_iff_held, (h x).head_exists, fun hc => ?_, fun hc => ?_⟩, fun e he hw => ?_⟩
    · obtain ⟨hq, hs, hp, -⟩ := (h x).held_empty hc
      exact ⟨hq, hs, hp⟩
    · obtain ⟨hq, hi, hp, -⟩ := (h x).quiet_empty hc
      exact ⟨hq, hi, hp⟩
    · cases hc : (unitOf s e.branch).ctrl with
      | active => exact .inl hc
      | draining => exact .inr hc
      | quiesced =>
        obtain ⟨-, -, -, hwork⟩ := (h e.branch).quiet_empty hc
        exact absurd hw ((workOf_eq_nil_iff s _).1 hwork e he rfl)
      | held =>
        obtain ⟨-, -, -, hwork⟩ := (h e.branch).held_empty hc
        exact absurd hw ((workOf_eq_nil_iff s _).1 hwork e he rfl)
  · rintro ⟨hshape, hplaced⟩ x
    refine ⟨(hshape x).fill, (hshape x).off_iff_held, (hshape x).head_exists, fun hc => ?_, fun hc => ?_⟩
    · obtain ⟨hq, hs, hp⟩ := (hshape x).held_empty hc
      refine ⟨hq, hs, hp, (workOf_eq_nil_iff s x).2 fun e he hb hw => ?_⟩
      exact (hplaced e he hw).not_held (hb ▸ hc)
    · obtain ⟨hq, hi, hp⟩ := (hshape x).quiet_empty hc
      refine ⟨hq, hi, hp, (workOf_eq_nil_iff s x).2 fun e he hb hw => ?_⟩
      exact (hplaced e he hw).not_quiesced (hb ▸ hc)

/-- A small part leaves an engaged branch engaged. -/
theorem SmallColumn.engaged {looked : Prop} {u v : BranchUnit} (h : SmallColumn looked u v) (hu : Engaged u) : Engaged v := by
  cases h with
  | alone ha =>
    cases ha with
    | node n f => rwa [Engaged, onNode_ctrl]
    | resume => exact .inl rfl
    | _ => exact hu
  | opens ho =>
    cases ho with
    | draining => exact .inr rfl
    | _ => exact hu
  | _ => exact hu

theorem WorkPlaced.shift {D E : Finset Branch} {s t : State} (hp : Shift (D, s) (E, t)) (hok : TableOk s) (h : WorkPlaced s) :
    WorkPlaced t := by
  intro e' he hw
  cases hp with
  | look => exact h e' he hw
  | settle x =>
    rw [entries_completeDrain] at he
    by_cases hd : (unitOf s x).ctrl = .draining ∧ Drained s x
    · rw [completeDrain_of_drained hd.1 hd.2, unitOf_drainedState]
      split
      next hb =>
        obtain ⟨hp, hi⟩ := hd.2.2.1 e' he hb
        rcases hw with hw | hw
        · rw [hp] at hw; cases hw
        · rw [hi] at hw; cases hw
      next => exact h e' he hw
    · rw [completeDrain_of_not hd]
      exact h e' he hw
  | free e =>
    rw [unitOf_freeSlot]
    exact h e' (mem_freeSlot.1 he).1 hw
  | create new entries branches pending node answers active ahead =>
    have hunit : ∀ y, unitOf t y = unitOf s y := fun y => by rw [unitOf, branches]; rfl
    rw [entries] at he
    rw [hunit]
    rcases List.mem_append.1 he with he | he
    · exact h e' he hw
    · rw [List.mem_singleton.1 he]
      exact .inl active
  | entry x e tx rate may live pending branch =>
    have hctrl : ∀ y, Engaged (unitOf s y) → Engaged (unitOf (startEntry x e.slot tx rate s) y) := fun y hy => by
      rw [unitOf_startEntry]
      split <;> exact hy
    rcases (hok.mem_startEntry live).1 he with rfl | ⟨he, -⟩
    · exact hctrl _ (h e live (.inl pending))
    · exact hctrl _ (h e' he hw)
  | finishSlot x tx k en =>
    have hready : isReady e' = false := by
      rcases hw with hw | hw
      · exact not_ready_of_pending hw
      · exact not_ready_of_issued hw
    have hold := h e' (mem_of_endDeferred (s := disengage x s) he hready) hw
    rw [unitOf_endDeferred, unitOf_disengage]
    split <;> exact hold
  | turn x n op =>
    have hctrl : ∀ y, Engaged (unitOf s y) → Engaged (unitOf (turnNode x n op s) y) := fun y hy => by
      rw [unitOf_turnNode]
      split
      · rwa [Engaged, onNode_ctrl]
      · exact hy
    obtain ⟨f, hf, rfl⟩ := List.mem_map.1 he
    rcases releasedByTurn_cases x n (claimStart s) f with ⟨heq, -⟩ | ⟨-, -, -, hready⟩
    · rw [heq] at hw ⊢
      exact hctrl _ (h f hf hw)
    · exact absurd hw (not_works_of_ready hready)
  | held x =>
    rcases hok.mem_holdColumn he with ⟨he, hb⟩ | ⟨-, hready⟩
    · rw [unitOf_holdColumn, if_neg hb]
      exact h e' he hw
    · exact absurd hw (not_works_of_ready hready)

theorem WorkPlaced.part {D E : Finset Branch} {s t : State} (hp : Part (D, s) (E, t)) (hok : TableOk s) (h : WorkPlaced s) :
    WorkPlaced t := by
  rcases hp.small_or_shift with ⟨-, ⟨f, hmap, hstatus, -⟩, hcolumn⟩ | hshift
  · intro e' he hw
    rw [hmap] at he
    obtain ⟨e, hlive, rfl⟩ := List.mem_map.1 he
    rw [(hstatus e).branch]
    exact (hcolumn _).engaged (h e hlive ((hstatus e).works.1 hw))
  · exact h.shift hshift hok

theorem WorkPlaced.release {s : State} (h : WorkPlaced s) {x : Branch} (hheld : (unitOf s x).ctrl = .held) :
    WorkPlaced (onUnit x (fun u => { u with ctrl := .quiesced, engine := .idle }) s) := by
  intro e he hw
  have hold := h e he hw
  rw [unitOf_onUnit]
  split
  next hb => exact absurd (hb ▸ hheld) hold.not_held
  next => exact hold

theorem WorkPlaced.lowerTimers {s : State} (h : WorkPlaced s) : WorkPlaced (lowerTimers s) := by
  intro e' he hw
  obtain ⟨e, hlive, rfl⟩ := List.mem_map.1 he
  have hsame := sameStatus_tickEntry e
  rw [hsame.branch, unitOf_lowerTimers]
  exact h e hlive (hsame.works.1 hw)

theorem workPlaced_reset : WorkPlaced State.reset := fun _ he => nomatch he

/-- With the table consistent, every event keeps the work placed. -/
theorem keptByEvents_workPlaced : KeptByEvents (fun s => TableOk s ∧ WorkPlaced s) :=
  .of_core (fun hc h => ⟨hc.tableOk h.1, by
      unfold WorkPlaced unitOf
      rw [hc.entries, hc.branches]
      exact h.2⟩)
    ⟨tableOk_reset, workPlaced_reset⟩ (fun hp h => ⟨h.1.part hp, h.2.part hp h.1⟩)
    (fun x _ hheld h => ⟨h.1.onUnit x _, h.2.release hheld⟩)
    (keep_tick (fun hp h => ⟨h.1.part hp, h.2.part hp h.1⟩) fun h => ⟨h.1.lowerTimers, h.2.lowerTimers⟩)

/-- Settles O30: a column keeps its shape, and the work stays on engaged branches. -/
theorem stepKeepsColumnsOk : Obligations.StepKeepsColumnsOk := by
  intro s t hok hcolumns hstep
  obtain ⟨hshape, hplaced⟩ := (columnsOk_iff s).1 hcolumns
  exact (columnsOk_iff t).2 ⟨keptByEvents_shape.step hshape hstep, (keptByEvents_workPlaced.step ⟨hok, hplaced⟩ hstep).2⟩

end Sys2Proof.Machine
end

section
/-! The transactions in flight (R6, R68, R97): how many a column has from each source, that the head in flight and every ISSUED entry has
one, and the drains that its end may complete (R139). -/

-- One theorem at a time: elaborated side by side, the proofs of this text need more memory than its check allows.
set_option Elab.async false

namespace Sys2Proof.Machine

/-! ### Transactions of one source -/

/-- How many transactions of a list have the source `σ`. -/
def ofSource (σ : Source) (txs : List Txn) : Nat := txs.countP (fun tx => tx.source = σ)

/-- How many transactions of the engine have the source `σ`. -/
def engineFrom (σ : Source) (e : Engine) : Nat := ofSource σ (currentTxn e).toList

/-- How many transactions of the park slot have the source `σ`. -/
def parkFrom (σ : Source) (p : Option Parked) : Nat := ofSource σ (p.map Parked.tx).toList

/-- How many transactions in flight on a branch have the source `σ`. -/
def flightsFrom (σ : Source) (u : BranchUnit) : Nat := engineFrom σ u.engine + parkFrom σ u.park

theorem ofSource_inFlight (σ : Source) (u : BranchUnit) : ofSource σ (inFlight u) = flightsFrom σ u := List.countP_append

/-- A tick leaves the transactions in flight. -/
theorem flightsFrom_tickUnit (σ : Source) (u : BranchUnit) : flightsFrom σ (tickUnit u) = flightsFrom σ u := by
  have hengine : currentTxn (tickEngine u.engine) = currentTxn u.engine := by cases u.engine <;> rfl
  have hpark : (tickPark u.park).map Parked.tx = u.park.map Parked.tx := by
    rcases u.park with _ | ⟨tx, _ | _⟩ <;> rfl
  simp only [flightsFrom, engineFrom, parkFrom, tickUnit, hengine, hpark]

theorem flightPosted_eq (u : BranchUnit) : flightPosted (inFlight u) = flightsFrom .posted u := ofSource_inFlight _ u

theorem count_flightSlots (u : BranchUnit) (k : Slot) : (flightSlots (inFlight u)).count k = flightsFrom (.slot k) u := by
  rw [← ofSource_inFlight, flightSlots, List.count_filterMap, ofSource]
  congr 1
  funext tx
  cases tx.source <;> simp [beq_eq_decide]

@[simp] theorem engineFrom_idle (σ : Source) : engineFrom σ .idle = 0 := rfl
@[simp] theorem engineFrom_off (σ : Source) : engineFrom σ .off = 0 := rfl
@[simp] theorem parkFrom_none (σ : Source) : parkFrom σ none = 0 := rfl

theorem engineFrom_of_current {σ : Source} {e : Engine} {tx : Txn} (h : currentTxn e = some tx) :
    engineFrom σ e = if tx.source = σ then 1 else 0 := by
  rw [engineFrom, h]
  simp [ofSource]

@[simp] theorem engineFrom_transmit (σ : Source) (tx : Txn) (rate : LineRate) :
    engineFrom σ (.transmit tx rate) = if tx.source = σ then 1 else 0 := engineFrom_of_current rfl

@[simp] theorem engineFrom_await (σ : Source) (tx : Txn) (n : Nat) :
    engineFrom σ (.await tx n) = if tx.source = σ then 1 else 0 := engineFrom_of_current rfl

@[simp] theorem engineFrom_backoff (σ : Source) (tx : Txn) (n : Nat) :
    engineFrom σ (.backoff tx n) = if tx.source = σ then 1 else 0 := engineFrom_of_current rfl

@[simp] theorem parkFrom_some (σ : Source) (p : Parked) : parkFrom σ (some p) = if p.tx.source = σ then 1 else 0 := by
  simp [parkFrom, ofSource]

/-- A move that starts no transaction from an entry or the posted head leaves the count of those sources. -/
theorem Alone.flights {u v : BranchUnit} (h : Alone u v) {σ : Source} (hprobe : σ ≠ .probeSet) (hresync : σ ≠ .resync) :
    (v.headInFlight = u.headInFlight ∧ flightsFrom σ v = flightsFrom σ u) ∨
    (u.headInFlight = false ∧ v.headInFlight = true ∧ flightsFrom σ v = flightsFrom σ u + if .posted = σ then 1 else 0) := by
  unfold flightsFrom
  cases h with
  | node n f => exact .inl (by simp)
  | startParked tx rate may due =>
    have hpark : u.park = some { tx := tx, delay := .due } := due
    exact .inl ⟨rfl, by simp [hpark, may.1]⟩
  | startProbe tx rate may source =>
    have hne : tx.source ≠ σ := by
      rcases source with h | h <;> rw [h]
      · exact hprobe.symm
      · exact hresync.symm
    exact .inl ⟨rfl, by simp [may.1, hne]⟩
  | startPosted tx rate may source idle =>
    exact .inr ⟨idle, rfl, by simp only [may.1, engineFrom_transmit, source, engineFrom_idle, Nat.zero_add, countIssue]; omega⟩
  | await tx rate sent => exact .inl ⟨rfl, by simp [sent]⟩
  | send tx tx' n rate current same => exact .inl ⟨rfl, by rcases current with hc | hc <;> simp [hc, same.1]⟩
  | park tx tx' n current same free => exact .inl ⟨rfl, by simp [current, same.1, free]⟩
  | backoff tx tx' n current same => exact .inl ⟨rfl, by simp [current, same.1]⟩
  | due tx n waits => exact .inl ⟨rfl, by simp [waits]⟩
  | _ => exact .inl ⟨rfl, rfl⟩

theorem Opens.flights {u v : BranchUnit} (h : Opens u v) {σ : Source} (hprobe : σ ≠ .probeSet) (hresync : σ ≠ .resync) :
    v.headInFlight = u.headInFlight ∧ flightsFrom σ v = flightsFrom σ u := by
  unfold flightsFrom
  cases h with
  | resync tx current source => exact ⟨rfl, by simp [engineFrom_of_current current, source, hresync.symm]⟩
  | probe tx n current source => exact ⟨rfl, by simp [engineFrom_of_current current, source, hprobe.symm]⟩
  | draining => exact ⟨rfl, rfl⟩

/-! ### The posted head -/

/-- The head is in flight exactly when one transaction comes from it. -/
def HeadFlies (u : BranchUnit) : Prop := flightsFrom .posted u = if u.headInFlight then 1 else 0

theorem HeadFlies.congr {u v : BranchUnit} (h : HeadFlies u) (hhead : v.headInFlight = u.headInFlight)
    (hflights : flightsFrom .posted v = flightsFrom .posted u) : HeadFlies v := by
  rwa [HeadFlies, hhead, hflights]

theorem HeadFlies.column {u v : BranchUnit} (hc : Column u v) (h : HeadFlies u) : HeadFlies v := by
  cases hc with
  | same => exact h
  | alone ha =>
    rcases ha.flights (σ := .posted) (by decide) (by decide) with ⟨hhead, hflights⟩ | ⟨hold, hnew, hflights⟩
    · exact h.congr hhead hflights
    · rw [HeadFlies, hold] at h
      rw [HeadFlies, hnew, hflights, h]
      rfl
  | opens ho =>
    obtain ⟨hhead, hflights⟩ := ho.flights (σ := .posted) (by decide) (by decide)
    exact h.congr hhead hflights
  | depart idle => exact h.congr idle.symm rfl
  | entry tx k rate may source => exact h.congr rfl (by simp [flightsFrom, source, may.1, countIssue])
  | finishPosted tx current source =>
    rw [HeadFlies, flightsFrom, engineFrom_of_current current, if_pos source] at h
    show flightsFrom .posted _ = 0
    simp only [flightsFrom, engineFrom_idle]
    split at h <;> omega
  | finishSlot tx k current source =>
    exact h.congr rfl (by simp [flightsFrom, engineFrom_of_current current, source])
  | turn n op => exact h.congr (by simp) (by simp [flightsFrom])
  | held => rfl
  | complete => exact h.congr rfl rfl

theorem HeadFlies.tickUnit {u : BranchUnit} (h : HeadFlies u) : HeadFlies (tickUnit u) := by
  exact h.congr rfl (flightsFrom_tickUnit _ u)

/-! ### The ISSUED entries -/

/-- Slot `k` holds an ISSUED entry of branch `x`. -/
def IssuedAt (s : State) (x : Branch) (k : Slot) : Prop := ∃ e ∈ s.entries, e.slot = k ∧ e.branch = x ∧ isIssued e = true

/-- How many ISSUED entries of branch `x` slot `k` holds. -/
def countIssued (s : State) (x : Branch) (k : Slot) : Nat := s.entries.countP (fun e => e.slot = k && e.branch = x && isIssued e)

theorem countIssued_eq_zero {s : State} {x : Branch} {k : Slot} : countIssued s x k = 0 ↔ ¬ IssuedAt s x k := by
  simp only [countIssued, List.countP_eq_zero, IssuedAt, Bool.and_eq_true, decide_eq_true_eq, not_exists, not_and, and_imp, Bool.not_eq_true]

theorem TableOk.countIssued_le {s : State} (h : TableOk s) (x : Branch) (k : Slot) : countIssued s x k ≤ 1 := by
  calc countIssued s x k ≤ s.entries.countP (fun e => e.slot == k) :=
        List.countP_mono_left fun e _ he => by
          simp only [Bool.and_eq_true, decide_eq_true_eq] at he
          simpa using he.1.1
    _ = (s.entries.map Entry.slot).count k := (List.countP_map (p := (· == k)) ..).symm
    _ ≤ 1 := List.nodup_iff_count_le_one.1 h.slots_nodup k

theorem TableOk.countIssued_eq_one {s : State} (h : TableOk s) {x : Branch} {k : Slot} (hi : IssuedAt s x k) : countIssued s x k = 1 := by
  have hne : countIssued s x k ≠ 0 := fun h0 => countIssued_eq_zero.1 h0 hi
  have hle := h.countIssued_le x k
  omega

theorem countIssued_congr {s t : State} (hs : TableOk s) (ht : TableOk t) {x : Branch} {k : Slot}
    (h : IssuedAt t x k ↔ IssuedAt s x k) : countIssued t x k = countIssued s x k := by
  by_cases hi : IssuedAt s x k
  · rw [hs.countIssued_eq_one hi, ht.countIssued_eq_one (h.2 hi)]
  · rw [countIssued_eq_zero.2 hi, countIssued_eq_zero.2 (mt h.1 hi)]

/-- Every ISSUED entry has exactly one transaction, on its own branch, and no other slot has one. -/
def EntriesFly (s : State) : Prop := ∀ x k, flightsFrom (.slot k) (unitOf s x) = countIssued s x k

theorem flightsOk_iff (s : State) : FlightsOk s ↔ (∀ x, HeadFlies (unitOf s x)) ∧ EntriesFly s := by
  constructor
  · intro h
    exact ⟨fun x => (flightPosted_eq _).symm.trans (h.posted x), fun x k => (count_flightSlots _ k).symm.trans (h.slots x k)⟩
  · rintro ⟨hposted, hslots⟩
    exact ⟨fun x => (flightPosted_eq _).trans (hposted x), fun x k => (count_flightSlots _ k).trans (hslots x k)⟩

/-- The entry of a current transaction. -/
theorem EntriesFly.issued {s : State} (h : EntriesFly s) {x : Branch} {k : Slot} {tx : Txn}
    (hcur : currentTxn (unitOf s x).engine = some tx) (hsource : tx.source = .slot k) : IssuedAt s x k := by
  have hcount := h x k
  rw [flightsFrom, engineFrom_of_current hcur, if_pos hsource] at hcount
  by_contra hnot
  rw [countIssued_eq_zero.2 hnot] at hcount
  omega

theorem SmallColumn.slot_flights {looked : Prop} {u v : BranchUnit} (h : SmallColumn looked u v) (k : Slot) :
    flightsFrom (.slot k) v = flightsFrom (.slot k) u := by
  cases h with
  | alone ha =>
    rcases ha.flights (σ := .slot k) (by simp) (by simp) with ⟨-, hflights⟩ | ⟨-, -, hflights⟩
    · exact hflights
    · simpa using hflights
  | opens ho => exact (ho.flights (by simp) (by simp)).2
  | finishPosted tx current source => simp [flightsFrom, engineFrom_of_current current, source]
  | _ => rfl

theorem issuedAt_onEntries {s : State} {f : Entry → Entry} (hf : ∀ e, SameStatus e (f e)) (x : Branch) (k : Slot) :
    (∃ e ∈ s.entries.map f, e.slot = k ∧ e.branch = x ∧ isIssued e = true) ↔ IssuedAt s x k := by
  simp only [List.mem_map, exists_exists_and_eq_and, (hf _).slot, (hf _).branch, (hf _).issued, IssuedAt]

/-- Handing an entry to the engine makes it the ISSUED one. -/
theorem TableOk.issuedAt_startEntry {s : State} (h : TableOk s) {e : Entry} {tx : Txn} {rate : LineRate} (he : e ∈ s.entries)
    (hp : isPending e = true) (y : Branch) (k : Slot) : IssuedAt (startEntry e.branch e.slot tx rate s) y k ↔
      (y = e.branch ∧ k = e.slot) ∨ IssuedAt s y k := by
  constructor
  · rintro ⟨f, hf, rfl, rfl, hi⟩
    rcases (h.mem_startEntry he).1 hf with rfl | ⟨hf, -⟩
    · exact .inl ⟨rfl, rfl⟩
    · exact .inr ⟨f, hf, rfl, rfl, hi⟩
  · rintro (⟨rfl, rfl⟩ | ⟨f, hf, rfl, rfl, hi⟩)
    · exact ⟨_, (h.mem_startEntry he).2 (.inl rfl), rfl, rfl, rfl⟩
    · refine ⟨f, (h.mem_startEntry he).2 (.inr ⟨hf, ?_⟩), rfl, rfl, hi⟩
      rintro rfl
      rw [isPending_iff] at hp
      simp [isIssued, hp] at hi

/-- The end of a deferred transaction leaves every other ISSUED entry. -/
theorem TableOk.issuedAt_endDeferred {s : State} (h : TableOk s) {x : Branch} {k : Slot} (hissued : IssuedAt s x k) (en : TxEnd)
    (y : Branch) (j : Slot) : IssuedAt (Machine.endDeferred k en s) y j ↔ IssuedAt s y j ∧ ¬ (y = x ∧ j = k) := by
  obtain ⟨e, he, rfl, rfl, hi⟩ := hissued
  constructor
  · rintro ⟨f, hf, rfl, rfl, hfi⟩
    rcases h.mem_endDeferred he hi hf with ⟨hf, hne⟩ | ⟨-, -, -, hready⟩
    · exact ⟨⟨f, hf, rfl, rfl, hfi⟩, fun hsame => hne (h.eq_of_slot hf he hsame.2)⟩
    · rw [not_ready_of_issued hfi] at hready
      cases hready
  · rintro ⟨⟨f, hf, rfl, rfl, hfi⟩, hnot⟩
    exact ⟨f, h.mem_endDeferred_of_ne he hi hf fun heq => hnot (heq ▸ ⟨rfl, rfl⟩), rfl, rfl, hfi⟩

theorem EntriesFly.congr {s t : State} (h : EntriesFly s) (hs : TableOk s) (ht : TableOk t)
    (hflights : ∀ y k, flightsFrom (.slot k) (unitOf t y) = flightsFrom (.slot k) (unitOf s y))
    (hissued : ∀ y k, IssuedAt t y k ↔ IssuedAt s y k) : EntriesFly t := by
  intro y k
  rw [hflights, h, countIssued_congr hs ht (hissued y k)]

theorem EntriesFly.shift {D E : Finset Branch} {s t : State} (hp : Shift (D, s) (E, t)) (hs : TableOk s) (ht : TableOk t)
    (h : EntriesFly s) : EntriesFly t := by
  cases hp with
  | look => exact h
  | settle x =>
    refine h.congr hs ht (fun y k => ?_) fun y k => by rw [IssuedAt, entries_completeDrain]; rfl
    obtain ⟨c, hunit⟩ := unitOf_completeDrain x y s
    rw [hunit]
    rfl
  | free e live unissued =>
    refine h.congr hs ht (fun y k => by rw [unitOf_freeSlot]) fun y k => ⟨?_, ?_⟩
    · rintro ⟨f, hf, hfield⟩
      exact ⟨f, (mem_freeSlot.1 hf).1, hfield⟩
    · rintro ⟨f, hf, hk, hb, hi⟩
      refine ⟨f, mem_freeSlot.2 ⟨hf, fun hslot => ?_⟩, hk, hb, hi⟩
      rw [hs.eq_of_slot hf live hslot, unissued] at hi
      cases hi
  | create new entries branches pending node answers active ahead =>
    refine h.congr hs ht (fun y k => by rw [unitOf, branches]; rfl) fun y k => ⟨?_, ?_⟩
    · rintro ⟨f, hf, hk, hb, hi⟩
      rw [entries] at hf
      rcases List.mem_append.1 hf with hf | hf
      · exact ⟨f, hf, hk, hb, hi⟩
      · rw [List.mem_singleton.1 hf] at hi
        rw [isPending_iff] at pending
        simp [isIssued, pending] at hi
    · rintro ⟨f, hf, hfield⟩
      exact ⟨f, by rw [entries]; exact List.mem_append_left _ hf, hfield⟩
  | entry x e tx rate may live pending branch source =>
    subst branch
    have hnot : ¬ IssuedAt s e.branch e.slot := by
      rintro ⟨f, hf, hslot, -, hi⟩
      rw [hs.eq_of_slot hf live hslot] at hi
      rw [isPending_iff] at pending
      simp [isIssued, pending] at hi
    intro y k
    have hiff := hs.issuedAt_startEntry (tx := tx) (rate := rate) live pending y k
    rw [unitOf_startEntry]
    split
    next hy =>
      subst hy
      have hold := h e.branch k
      simp only [flightsFrom, may.1, engineFrom_idle, engineFrom_transmit, countIssue, source] at hold ⊢
      by_cases hk : k = e.slot
      · subst hk
        rw [countIssued_eq_zero.2 hnot] at hold
        rw [ht.countIssued_eq_one (hiff.2 (.inl ⟨rfl, rfl⟩)), if_pos rfl]
        omega
      · rw [countIssued_congr hs ht (hiff.trans (or_iff_right fun hboth => hk hboth.2)), if_neg fun heq => hk (Source.slot.inj heq).symm]
        exact hold
    next hy =>
      rw [h, countIssued_congr hs ht (hiff.trans (or_iff_right fun hboth => hy hboth.1))]
  | finishSlot x tx k en current source =>
    have hissued : IssuedAt s x k := h.issued current source
    have hdis : TableOk (disengage x s) := hs.onUnit x _
    intro y j
    have hiff : IssuedAt (endDeferred k en (disengage x s)) y j ↔ IssuedAt s y j ∧ ¬ (y = x ∧ j = k) :=
      hdis.issuedAt_endDeferred (s := disengage x s) hissued en y j
    rw [unitOf_endDeferred, unitOf_disengage]
    split
    next hy =>
      subst hy
      have hold := h y j
      simp only [flightsFrom, engineFrom_of_current current, source, engineFrom_idle] at hold ⊢
      by_cases hj : j = k
      · subst hj
        rw [hs.countIssued_eq_one hissued, if_pos rfl] at hold
        rw [countIssued_eq_zero.2 fun hi => (hiff.1 hi).2 ⟨rfl, rfl⟩]
        omega
      · rw [if_neg fun heq => hj (Source.slot.inj heq).symm] at hold
        rw [hold, countIssued_congr hs ht (hiff.trans (and_iff_left fun hboth => hj hboth.2))]
    next hy =>
      rw [h, countIssued_congr hs ht (hiff.trans (and_iff_left fun hboth => hy hboth.1))]
  | turn x n op =>
    refine h.congr hs ht (fun y k => ?_) fun y k => ⟨?_, ?_⟩
    · rw [unitOf_turnNode]
      split
      · simp [flightsFrom]
      · rfl
    · rintro ⟨f, hf, hk, hb, hi⟩
      obtain ⟨e, he, rfl⟩ := List.mem_map.1 hf
      rcases releasedByTurn_cases x n (claimStart s) e with ⟨heq, -⟩ | ⟨-, -, -, hready⟩
      · rw [heq] at hk hb hi
        exact ⟨e, he, hk, hb, hi⟩
      · rw [not_ready_of_issued hi] at hready
        cases hready
    · rintro ⟨e, he, hk, hb, hi⟩
      refine ⟨e, List.mem_map.2 ⟨e, he, ?_⟩, hk, hb, hi⟩
      rcases releasedByTurn_cases x n (claimStart s) e with ⟨heq, -⟩ | ⟨-, hp, -, -⟩
      · exact heq
      · rw [isPending_iff] at hp
        simp [isIssued, hp] at hi
  | held x =>
    intro y k
    have hiff : IssuedAt (holdColumn x s) y k ↔ IssuedAt s y k ∧ y ≠ x := by
      constructor
      · rintro ⟨f, hf, hk, rfl, hi⟩
        rcases hs.mem_holdColumn hf with ⟨hf, hb⟩ | ⟨-, hready⟩
        · exact ⟨⟨f, hf, hk, rfl, hi⟩, hb⟩
        · rw [not_ready_of_issued hi] at hready
          cases hready
      · rintro ⟨⟨f, hf, hk, rfl, hi⟩, hb⟩
        exact ⟨f, hs.mem_holdColumn_of_other hf hb, hk, rfl, hi⟩
    rw [unitOf_holdColumn]
    split
    next hy => exact (countIssued_eq_zero.2 fun hi => (hiff.1 hi).2 hy).symm
    next hy => rw [h, countIssued_congr hs ht (hiff.trans (and_iff_left hy))]

theorem EntriesFly.part {D E : Finset Branch} {s t : State} (hp : Part (D, s) (E, t)) (hs : TableOk s) (h : EntriesFly s) :
    EntriesFly t := by
  have ht := hs.part hp
  rcases hp.small_or_shift with ⟨-, ⟨f, hmap, hstatus, -⟩, hcolumn⟩ | hshift
  · refine h.congr hs ht (fun y k => (hcolumn y).slot_flights k) fun y k => ?_
    rw [IssuedAt, hmap]
    exact issuedAt_onEntries hstatus y k
  · exact h.shift hshift hs ht

theorem FlightsOk.part {D E : Finset Branch} {s t : State} (hp : Part (D, s) (E, t)) (hs : TableOk s) (h : FlightsOk s) :
    FlightsOk t := by
  rw [flightsOk_iff] at h ⊢
  exact ⟨fun x => (h.1 x).column (hp.column x), h.2.part hp hs⟩

theorem FlightsOk.lowerTimers {s : State} (hs : TableOk s) (h : FlightsOk s) : FlightsOk (lowerTimers s) := by
  rw [flightsOk_iff] at h ⊢
  refine ⟨fun x => by rw [unitOf_lowerTimers]; exact (h.1 x).tickUnit, h.2.congr hs hs.lowerTimers (fun y k => ?_)
    (issuedAt_onEntries sameStatus_tickEntry)⟩
  rw [unitOf_lowerTimers, flightsFrom_tickUnit]

theorem flightsOk_reset : FlightsOk State.reset :=
  ⟨fun x => by cases x <;> rfl, fun x k => by cases x <;> rfl⟩

/-- Settles O31: starts and ends of transactions go with the head and the entries they come from; the engine that RELEASE sets idle was
OFF. -/
theorem stepKeepsFlightsOk : Obligations.StepKeepsFlightsOk := by
  have hpart : ∀ {D E : Finset Branch} {s t : State}, Part (D, s) (E, t) → (TableOk s ∧ ∀ x, Shape (unitOf s x)) ∧ FlightsOk s →
      (TableOk t ∧ ∀ x, Shape (unitOf t x)) ∧ FlightsOk t := fun hp h =>
    ⟨⟨h.1.1.part hp, fun x => (h.1.2 x).column (hp.column x)⟩, h.2.part hp h.1.1⟩
  have hkept : KeptByEvents (fun s => (TableOk s ∧ ∀ x, Shape (unitOf s x)) ∧ FlightsOk s) := by
    refine .of_core (fun hc h => ⟨⟨hc.tableOk h.1.1, fun x => ?_⟩, fun x => ?_, fun x k => ?_⟩)
      ⟨⟨tableOk_reset, fun x => by cases x <;> exact shape_reset⟩, flightsOk_reset⟩ hpart (fun x s hheld h => ?_)
      (keep_tick hpart fun h => ⟨⟨h.1.1.lowerTimers, fun x => by rw [unitOf_lowerTimers]; exact (h.1.2 x).tickUnit⟩,
        h.2.lowerTimers h.1.1⟩)
    · rw [unitOf, hc.branches]
      exact h.1.2 x
    · rw [unitOf, hc.branches]
      exact h.2.posted x
    · rw [unitOf, hc.branches, hc.entries]
      exact h.2.slots x k
    · obtain ⟨⟨hok, hshape⟩, hflights⟩ := h
      have hoff : (unitOf s x).engine = .off := (hshape x).off_iff_held.2 hheld
      have hcolumn : ∀ y, inFlight (unitOf (onUnit x (fun u => { u with ctrl := .quiesced, engine := .idle }) s) y) =
          inFlight (unitOf s y) ∧ (unitOf (onUnit x (fun u => { u with ctrl := .quiesced, engine := .idle }) s) y).headInFlight =
          (unitOf s y).headInFlight := fun y => by
        rw [unitOf_onUnit]
        split
        next hy => subst hy; exact ⟨by rw [inFlight, inFlight, hoff]; rfl, rfl⟩
        next => exact ⟨rfl, rfl⟩
      refine ⟨⟨hok.onUnit x _, fun y => ?_⟩, fun y => by rw [(hcolumn y).1, (hcolumn y).2]; exact hflights.posted y,
        fun y k => by rw [(hcolumn y).1]; exact hflights.slots y k⟩
      rw [unitOf_onUnit]
      split
      next hy => subst hy; exact (hshape y).release hheld
      next => exact hshape y
  exact fun s t hs hcolumns hflights hstep => (hkept.step ⟨⟨hs, ((columnsOk_iff s).1 hcolumns).1⟩, hflights⟩ hstep).2

end Sys2Proof.Machine
end

section
/-! Drains (R138, R139): a part that ends work looks at its branch, and what looks at a branch settles its drain. -/

-- One theorem at a time: elaborated side by side, the proofs of this text need more memory than its check allows.
set_option Elab.async false

namespace Sys2Proof.Machine

/-- No branch but those of `D` is DRAINING and drained. -/
def DrainsSettled (D : Finset Branch) (s : State) : Prop := ∀ x ∉ D, (unitOf s x).ctrl = .draining → ¬ Drained s x

/-- The column of a drained branch. -/
def Empty (u : BranchUnit) : Prop := u.queue = [] ∧ u.probeSet = [] ∧ u.park = none ∧ u.engine = .idle

theorem drained_iff_empty (s : State) (x : Branch) : Drained s x ↔ Empty (unitOf s x) ∧ ∀ e ∈ s.entries, e.branch = x → ¬ Works e := by
  simp only [Drained, Empty, Works, not_or, Bool.not_eq_true]
  tauto

theorem probeJoin_ne_nil (n : Node) (ps : List Node) : probeJoin n ps ≠ [] := by
  intro h
  have hmem : n ∈ probeJoin n ps := mem_probeJoin.2 (.inl rfl)
  rw [h] at hmem
  cases hmem

/-- A move of a column that is not looked at meets no last condition of a drain. -/
theorem Alone.not_drains {u v : BranchUnit} (h : Alone u v) (hv : v.ctrl = .draining) (hempty : Empty v) :
    u.ctrl = .draining ∧ Empty u := by
  obtain ⟨hq, hs, hp, he⟩ := hempty
  cases h with
  | node n f =>
    rw [onNode_queue] at hq
    rw [onNode_probeSet] at hs
    rw [onNode_park] at hp
    rw [onNode_engine] at he
    rw [onNode_ctrl] at hv
    exact ⟨hv, hq, hs, hp, he⟩
  | post r => cases List.append_eq_nil_iff.1 hq |>.2
  | probe n => exact absurd hs (probeJoin_ne_nil n _)
  | counts q fill => exact ⟨hv, List.length_eq_zero_iff.1 (fill.symm.trans (List.length_eq_zero_iff.2 hq)), hs, hp, he⟩
  | settings | receiver => exact ⟨hv, hq, hs, hp, he⟩
  | resume => cases hv
  | startParked | startProbe | startPosted | await | send | backoff => cases he
  | park | due => cases hp

theorem DrainsSettled.of_same_work {D : Finset Branch} {s t : State} (h : DrainsSettled D s)
    (hcolumn : ∀ y ∉ D, (unitOf t y).ctrl = .draining → Empty (unitOf t y) → (unitOf s y).ctrl = .draining ∧ Empty (unitOf s y))
    (hwork : ∀ y ∉ D, ∀ e ∈ s.entries, e.branch = y → Works e → ∃ e' ∈ t.entries, e'.branch = y ∧ Works e') : DrainsSettled D t := by
  intro y hy hc hd
  obtain ⟨hempty, hidle⟩ := (drained_iff_empty t y).1 hd
  obtain ⟨hc', hempty'⟩ := hcolumn y hy hc hempty
  refine h y hy hc' ((drained_iff_empty s y).2 ⟨hempty', fun e he hb hw => ?_⟩)
  obtain ⟨e', he', hb', hw'⟩ := hwork y hy e he hb hw
  exact hidle e' he' hb' hw'

theorem DrainsSettled.small {D : Finset Branch} {s t : State} (h : DrainsSettled D s) (hsmall : Small D s t) : DrainsSettled D t := by
  obtain ⟨⟨f, hmap, hstatus, -⟩, hcolumn⟩ := hsmall
  refine h.of_same_work (fun y hy hc hempty => ?_) fun y _ e he hb hw => ?_
  · have hsc := hcolumn y
    generalize unitOf t y = v at hsc hc hempty
    cases hsc with
    | same => exact ⟨hc, hempty⟩
    | alone ha => exact ha.not_drains hc hempty
    | opens _ looks => exact absurd looks hy
    | depart _ looks => exact absurd looks hy
    | finishPosted _ _ _ looks => exact absurd looks hy
  · exact ⟨f e, by rw [hmap]; exact List.mem_map_of_mem he, (hstatus e).branch.trans hb, (hstatus e).works.2 hw⟩

/-- A part that changes one column, looked at or not empty after it. -/
theorem empty_of_ite {s t : State} {D : Finset Branch} {x : Branch} {v : BranchUnit → BranchUnit}
    (hunit : ∀ y, unitOf t y = if y = x then v (unitOf s y) else unitOf s y)
    (hx : x ∈ D ∨ (v (unitOf s x)).ctrl ≠ .draining ∨ ¬ Empty (v (unitOf s x))) (y : Branch) (hy : y ∉ D)
    (hc : (unitOf t y).ctrl = .draining) (hempty : Empty (unitOf t y)) : (unitOf s y).ctrl = .draining ∧ Empty (unitOf s y) := by
  rw [hunit] at hc hempty
  by_cases hyx : y = x
  · subst hyx
    rw [if_pos rfl] at hc hempty
    rcases hx with hx | hx | hx
    · exact absurd hx hy
    · exact absurd hc hx
    · exact absurd hempty hx
  · rw [if_neg hyx] at hc hempty
    exact ⟨hc, hempty⟩

theorem DrainsSettled.shift {D E : Finset Branch} {s t : State} (hp : Shift (D, s) (E, t)) (hs : TableOk s) (hf : EntriesFly s)
    (h : DrainsSettled D s) : DrainsSettled E t := by
  cases hp with
  | look x => exact fun y hy => h y fun hD => hy (Finset.mem_insert_of_mem hD)
  | settle x =>
    intro y hy hc hdr
    by_cases hd : (unitOf s x).ctrl = .draining ∧ Drained s x
    · rw [completeDrain_of_drained hd.1 hd.2] at hc hdr
      rw [unitOf_drainedState] at hc
      split at hc
      next => cases hc
      next hyx =>
        refine h y (fun hD => hy (Finset.mem_erase.2 ⟨hyx, hD⟩)) hc ?_
        rw [drained_iff_empty, unitOf_drainedState, if_neg hyx] at hdr
        exact (drained_iff_empty s y).2 hdr
    · rw [completeDrain_of_not hd] at hc hdr
      by_cases hyx : y = x
      · exact hd (hyx ▸ ⟨hc, hdr⟩)
      · exact h y (fun hD => hy (Finset.mem_erase.2 ⟨hyx, hD⟩)) hc hdr
  | free e live unissued looked =>
    refine h.of_same_work (fun y _ hc hempty => by rw [unitOf_freeSlot] at hc hempty; exact ⟨hc, hempty⟩) fun y hy f hf hb hw => ?_
    refine ⟨f, mem_freeSlot.2 ⟨hf, fun hslot => ?_⟩, hb, hw⟩
    obtain rfl := hs.eq_of_slot hf live hslot
    rcases hw with hw | hw
    · exact hy (hb ▸ looked hw)
    · rw [unissued] at hw
      cases hw
  | create new entries branches =>
    have hunit : ∀ y, unitOf t y = unitOf s y := fun y => by rw [unitOf, branches]; rfl
    refine h.of_same_work (fun y _ hc hempty => by rw [hunit] at hc hempty; exact ⟨hc, hempty⟩) fun y _ f hf hb hw => ?_
    exact ⟨f, by rw [entries]; exact List.mem_append_left _ hf, hb, hw⟩
  | entry x e tx rate may live pending branch =>
    refine h.of_same_work (empty_of_ite (v := fun u => { countIssue 0 u with engine := .transmit tx rate })
      (fun y => unitOf_startEntry x y s e.slot tx rate) (.inr (.inr fun hempty => nomatch hempty.2.2.2))) fun y _ f hf hb hw => ?_
    by_cases hfe : f = e
    · subst hfe
      exact ⟨_, (hs.mem_startEntry live).2 (.inl rfl), hb, .inr rfl⟩
    · exact ⟨f, (hs.mem_startEntry live).2 (.inr ⟨hf, hfe⟩), hb, hw⟩
  | finishSlot x tx k en current source looked =>
    obtain ⟨e, he, rfl, rfl, hi⟩ := hf.issued current source
    refine h.of_same_work (empty_of_ite (v := fun u => { u with engine := .idle }) (fun y => ?_) (.inl looked)) fun y hy f hf hb hw => ?_
    · rw [unitOf_endDeferred, unitOf_disengage]
    · have hne : f ≠ e := fun heq => hy (hb ▸ heq ▸ looked)
      have hdis : TableOk (disengage e.branch s) := hs.onUnit _ _
      exact ⟨f, hdis.mem_endDeferred_of_ne he hi hf hne, hb, hw⟩
  | turn x n op node looked =>
    refine h.of_same_work (empty_of_ite (fun y => unitOf_turnNode x y s n op) (.inl looked)) fun y hy f hf hb hw => ?_
    refine ⟨f, List.mem_map.2 ⟨f, hf, ?_⟩, hb, hw⟩
    rcases releasedByTurn_cases x n (claimStart s) f with ⟨heq, -⟩ | ⟨hbx, -⟩
    · exact heq
    · exact absurd (hb ▸ hbx ▸ looked) hy
  | held x free =>
    intro y hy hc hdr
    rw [unitOf_holdColumn] at hc
    split at hc
    next => cases hc
    next hyx =>
      refine h y hy hc ((drained_iff_empty s y).2 ?_)
      rw [drained_iff_empty, unitOf_holdColumn, if_neg hyx] at hdr
      exact ⟨hdr.1, fun f hf hb hw => hdr.2 f (hs.mem_holdColumn_of_other hf (hb ▸ hyx)) hb hw⟩

/-- What a chain of parts keeps of its open drains, with the table and the transactions that show where work ends. -/
def DrainInvariant (D : Finset Branch) (s : State) : Prop := TableOk s ∧ EntriesFly s ∧ DrainsSettled D s

theorem DrainInvariant.part {D E : Finset Branch} {s t : State} (hp : Part (D, s) (E, t)) (h : DrainInvariant D s) :
    DrainInvariant E t := by
  obtain ⟨hs, hf, hd⟩ := h
  refine ⟨hs.part hp, hf.part hp hs, ?_⟩
  rcases hp.small_or_shift with ⟨rfl, hsmall⟩ | hshift
  · exact hd.small hsmall
  · exact hd.shift hshift hs hf

theorem DrainInvariant.parts {D E : Finset Branch} {s t : State} (hp : Parts D s E t) (h : DrainInvariant D s) : DrainInvariant E t :=
  Parts.keep (P := DrainInvariant) DrainInvariant.part hp h

theorem DrainsSettled.lowerTimers {D : Finset Branch} {s : State} (h : DrainsSettled D s) : DrainsSettled D (lowerTimers s) := by
  refine h.of_same_work (fun y _ hc hempty => ?_) fun y _ e he hb hw => ?_
  · rw [unitOf_lowerTimers] at hc hempty
    obtain ⟨hq, hp, hpark, hengine⟩ := hempty
    refine ⟨hc, hq, hp, Option.map_eq_none_iff.1 hpark, ?_⟩
    simp only [tickUnit] at hengine
    cases hu : (unitOf s y).engine <;> simp [hu, tickEngine] at hengine
    rfl
  · exact ⟨tickEntry e, List.mem_map_of_mem he, (sameStatus_tickEntry e).branch.trans hb, (sameStatus_tickEntry e).works.2 hw⟩

theorem noDrainLeftOpen_reset : NoDrainLeftOpen State.reset := fun x hc => by cases x <;> cases hc

/-- The queue, the flags, the response and the phase do not enter into a drain. -/
theorem NoDrainLeftOpen.congr {s t : State} (h : NoDrainLeftOpen s) (hentries : t.entries = s.entries)
    (hbranches : t.branches = s.branches) : NoDrainLeftOpen t := by
  intro x
  unfold Drained unitOf
  rw [hentries, hbranches]
  exact h x

theorem NoDrainLeftOpen.release {s : State} (h : NoDrainLeftOpen s) (x : Branch) :
    NoDrainLeftOpen (onUnit x (fun u => { u with ctrl := .quiesced, engine := .idle }) s) := by
  intro y
  rw [drained_iff_empty, unitOf_onUnit]
  split
  · exact fun hc => nomatch hc
  · exact fun hc hd => h y hc ((drained_iff_empty s y).2 hd)

/-- Settles O34: every chain of parts ends with the drains it looked at settled. -/
theorem stepLeavesNoDrainOpen : Obligations.StepLeavesNoDrainOpen := by
  intro s t hok hflights hdrains hstep
  have hstart : ∀ q, DrainInvariant ∅ { s with pending := q } := fun q =>
    ⟨hok.congr rfl rfl rfl rfl, ((flightsOk_iff s).1 hflights).2, fun x _ => hdrains x⟩
  have hopen : ∀ {u : State}, DrainInvariant ∅ u → NoDrainLeftOpen u := fun h x => h.2.2 x (Finset.notMem_empty x)
  cases hq : s.pending with
  | nil =>
    rw [step_of_empty hq, Host.Outcome.next.injEq] at hstep
    exact hstep ▸ hdrains
  | cons c rest =>
    rw [step_of_front hq] at hstep
    have hinv := hstart rest
    generalize { s with pending := rest } = u at hstep hinv
    cases event_of_exec hstep with
    | parts hp => exact hopen (hinv.parts hp)
    | refusedWrite a | attentionWrite a => exact (hopen hinv).congr rfl rfl
    | release a x held => exact ((hopen hinv).release x).congr rfl rfl
    | chipReset a | pinReset => exact noDrainLeftOpen_reset.congr rfl rfl
    | tick order =>
      obtain ⟨hs, hf, hd⟩ := hinv
      have hlower : DrainInvariant ∅ (lowerTimers u) := by
        refine ⟨hs.lowerTimers, hf.congr hs hs.lowerTimers (fun y k => ?_) (issuedAt_onEntries sameStatus_tickEntry), hd.lowerTimers⟩
        rw [unitOf_lowerTimers, flightsFrom_tickUnit]
      exact hopen (hlower.parts (parts_expiries _))

end Sys2Proof.Machine
end

section
/-! What parts leave outside the table and the branches (`Side`), and the ranges of settings and timers (sections 1.3, 2.5, 10.3). -/

-- One theorem at a time: elaborated side by side, the proofs of this text need more memory than its check allows.
set_option Elab.async false

namespace Sys2Proof.Machine

/-! ### Settings, records, flags and the queue of commands under a part -/

/-- The two states agree but for the port, the Request Table and the branches. -/
structure SameSide (s t : State) : Prop where
  divisor : t.divisor = s.divisor
  quotas : t.quotas = s.quotas
  apertures : t.apertures = s.apertures
  claimWindow : t.claimWindow = s.claimWindow
  resWindow : t.resWindow = s.resWindow
  refused : t.commandRefused = s.commandRefused
  records : t.records = s.records
  counter : t.recordCounter = s.recordCounter
  overrun : t.overrun = s.overrun
  quiesced : t.quiescedFlags = s.quiescedFlags
  pending : t.pending = s.pending

theorem SameSide.refl (s : State) : SameSide s s := ⟨rfl, rfl, rfl, rfl, rfl, rfl, rfl, rfl, rfl, rfl, rfl⟩

theorem SameSide.trans {s t u : State} (h : SameSide s t) (h' : SameSide t u) : SameSide s u where
  divisor := h'.divisor.trans h.divisor
  quotas := h'.quotas.trans h.quotas
  apertures := h'.apertures.trans h.apertures
  claimWindow := h'.claimWindow.trans h.claimWindow
  resWindow := h'.resWindow.trans h.resWindow
  refused := h'.refused.trans h.refused
  records := h'.records.trans h.records
  counter := h'.counter.trans h.counter
  overrun := h'.overrun.trans h.overrun
  quiesced := h'.quiesced.trans h.quiesced
  pending := h'.pending.trans h.pending

/-- A change of the port, the table and the branches alone. -/
theorem SameSide.of_eq {s t : State} (h : t = { s with
    response := t.response, phase := t.phase, enables := t.enables, entries := t.entries, waiting := t.waiting
    reservations := t.reservations, branches := t.branches }) : SameSide s t := by
  rw [h]
  exact ⟨rfl, rfl, rfl, rfl, rfl, rfl, rfl, rfl, rfl, rfl, rfl⟩

theorem sameSide_onUnit (x : Branch) (f : BranchUnit → BranchUnit) (s : State) : SameSide s (onUnit x f s) := .of_eq rfl

theorem sameSide_onEntries (f : Entry → Entry) (s : State) : SameSide s (onEntries f s) := .of_eq rfl

theorem sameSide_handOver (k : Slot) (s : State) : SameSide s (handOver k s) := by
  rw [handOver_frame]
  exact .of_eq rfl

theorem sameSide_freeSlot (k : Slot) (s : State) : SameSide s (freeSlot k s) := by
  rw [freeSlot_frame]
  exact .of_eq rfl

theorem sameSide_freeSlots (ks : List Slot) (s : State) : SameSide s (ks.foldl (fun t k => freeSlot k t) s) := by
  induction ks generalizing s with
  | nil => exact .refl s
  | cons k ks ih => exact (sameSide_freeSlot k s).trans (ih _)

theorem sameSide_endReservation (m : Master) (s : State) : SameSide s (endReservation m s) := by
  unfold endReservation
  split
  · exact .refl s
  · exact SameSide.trans (.of_eq rfl) (sameSide_handOver _ _)

theorem sameSide_endDeferred (k : Slot) (en : TxEnd) (s : State) : SameSide s (endDeferred k en s) := by
  unfold endDeferred
  split
  · exact .refl s
  · split
    · exact sameSide_freeSlot k s
    · exact sameSide_onEntries _ s
    · exact .refl s

/-- What a part does outside the port, the table and the branches. -/
inductive Side (s t : State) : Prop
  | same (h : SameSide s t)
  | knobs (divisor : Nat) (quotas : PerMaster Nat) (apertures : Vector Aperture 16)
      (ranges : SettingsInRange s → SettingsInRange { s with divisor := divisor, quotas := quotas, apertures := apertures })
      (h : t = { s with divisor := divisor, quotas := quotas, apertures := apertures })
  | refuse (h : t = refuseCommand s)
  | offer (body : RecordBody) (h : t = offer body s)
  | pop (h : t = popRecord s)
  | claimWindow (w : Word) (h : t = writeClaimWindow w s)
  | resWindow (w : Word) (h : t = writeResWindow w s)
  | drained (x : Branch) (h : t = drainedState x s)

theorem Part.side {D E : Finset Branch} {s t : State} (h : Part (D, s) (E, t)) : Side s t := by
  cases h with
  | port | unwait | create | wait | mark | alone | opens | depart | entry | finishPosted | turn => exact .same (.of_eq rfl)
  | look => exact .same (.refl s)
  | knobs divisor quotas apertures ranges => exact .knobs divisor quotas apertures ranges rfl
  | refuse => exact .refuse rfl
  | offer body => exact .offer body rfl
  | pop => exact .pop rfl
  | free e => exact .same (sameSide_freeSlot _ s)
  | endReservation m => exact .same (sameSide_endReservation m s)
  | claimWindow w => exact .claimWindow w rfl
  | resWindow w => exact .resWindow w rfl
  | finishSlot x tx k en => exact .same ((sameSide_onUnit x _ s).trans (sameSide_endDeferred k en _))
  | held x => exact .same (((sameSide_onUnit x heldUnit s).trans (sameSide_onEntries _ _)).trans (sameSide_freeSlots _ _))
  | settle x =>
    by_cases hd : (unitOf s x).ctrl = .draining ∧ Drained s x
    · exact .drained x (completeDrain_of_drained hd.1 hd.2)
    · rw [completeDrain_of_not hd]
      exact .same (.refl s)

/-! ### The queue of commands -/

theorem Part.pending_eq {D E : Finset Branch} {s t : State} (h : Part (D, s) (E, t)) : t.pending = s.pending := by
  cases h.side with
  | same h => exact h.pending
  | offer body h => rw [h, offer_pending]
  | claimWindow w h =>
    rw [h]
    simp only [writeClaimWindow]
    split <;> rfl
  | refuse h | pop h | resWindow _ h | drained _ h => rw [h]; rfl
  | knobs _ _ _ _ h => rw [h]

theorem Parts.pending_eq {D E : Finset Branch} {s t : State} (h : Parts D s E t) : t.pending = s.pending :=
  keep_parts (P := fun u => u.pending = s.pending) (fun hp hu => hp.pending_eq.trans hu) h rfl

theorem Event.pending_eq {c : Instr} {s t : State} (h : Event c s t) : t.pending = s.pending := by
  cases h with
  | parts hp => exact hp.pending_eq
  | tick order => exact (parts_expiries (s := lowerTimers s) _).pending_eq
  | _ => rfl

/-- Settles O2: every command is an event, and no event touches the queue. -/
theorem everyCommandCompletesAndKeepsTheQueue : Obligations.EveryCommandCompletesAndKeepsTheQueue := by
  intro c s
  obtain ⟨t, hexec, hevent⟩ := exec_event c s
  exact ⟨t, hexec, hevent.pending_eq⟩

/-! ### Settings -/

theorem Column.settings {u v : BranchUnit} (h : Column u v) (hu : settingsInRange u.settings) : settingsInRange v.settings := by
  cases h with
  | alone ha =>
    cases ha with
    | node n f => rwa [onNode_settings]
    | settings t ranges => exact ranges hu
    | _ => exact hu
  | opens ho => cases ho <;> exact hu
  | turn n op => rwa [onNode_settings]
  | held => simpa [heldUnit] using hu
  | _ => exact hu

/-- The settings that are not a branch's in their ranges. -/
def PlainSettings (s : State) : Prop :=
  (∀ m, s.quotas.get m ≤ 12) ∧ s.claimWindow ≤ 4095 ∧ s.resWindow ≤ 255 ∧ 4 ≤ s.divisor ∧ s.divisor ≤ 50 ∧
    ∀ n : Fin 16, (s.apertures[n.val]).sizeCode ≤ 8

theorem settingsInRange_iff (s : State) : SettingsInRange s ↔ PlainSettings s ∧ ∀ x, settingsInRange (unitOf s x).settings := by
  simp only [SettingsInRange, PlainSettings, and_assoc]

theorem PlainSettings.congr {s t : State} (h : PlainSettings s) (hdivisor : t.divisor = s.divisor) (hquotas : t.quotas = s.quotas)
    (hapertures : t.apertures = s.apertures) (hclaim : t.claimWindow = s.claimWindow) (hres : t.resWindow = s.resWindow) :
    PlainSettings t := by
  rw [PlainSettings, hdivisor, hquotas, hapertures, hclaim, hres]
  exact h

theorem writeClaimWindow_settings (w : Word) (s : State) : (writeClaimWindow w s).claimWindow = fieldOf w 0 12 ∧
    (writeClaimWindow w s).divisor = s.divisor ∧ (writeClaimWindow w s).quotas = s.quotas ∧
    (writeClaimWindow w s).apertures = s.apertures ∧ (writeClaimWindow w s).resWindow = s.resWindow := by
  simp only [writeClaimWindow]
  split <;> exact ⟨rfl, rfl, rfl, rfl, rfl⟩

theorem SettingsInRange.part {D E : Finset Branch} {s t : State} (hp : Part (D, s) (E, t)) (h : SettingsInRange s) : SettingsInRange t := by
  obtain ⟨hplain, hcolumns⟩ := (settingsInRange_iff s).1 h
  refine (settingsInRange_iff t).2 ⟨?_, fun x => (hp.column x).settings (hcolumns x)⟩
  have ⟨hq, hc, hr, h4, h50, ha⟩ := hplain
  cases hp.side with
  | same hs => exact hplain.congr hs.divisor hs.quotas hs.apertures hs.claimWindow hs.resWindow
  | knobs divisor quotas apertures ranges heq => exact heq ▸ ((settingsInRange_iff _).1 (ranges h)).1
  | offer body heq =>
    rw [heq, offer_frame]
    exact hplain.congr rfl rfl rfl rfl rfl
  | claimWindow w heq =>
    obtain ⟨hw, hd, hquotas, hap, hres⟩ := writeClaimWindow_settings w s
    subst heq
    refine ⟨by rwa [hquotas], ?_, by rwa [hres], by rwa [hd], by rwa [hd], by rwa [hap]⟩
    rw [hw]
    exact Nat.le_of_lt_succ (fieldOf_lt w 0 12)
  | resWindow w heq =>
    subst heq
    exact ⟨hq, hc, Nat.le_of_lt_succ (fieldOf_lt w 0 8), h4, h50, ha⟩
  | refuse heq | pop heq | drained _ heq => exact heq ▸ hplain.congr rfl rfl rfl rfl rfl

theorem settingsInRange_settingsReset : settingsInRange settingsReset := by
  unfold settingsInRange
  decide

theorem settingsInRange_reset : SettingsInRange State.reset := by
  refine (settingsInRange_iff _).2 ⟨⟨fun m => ?_, by decide, by decide, by decide, by decide, fun n => ?_⟩, fun x => ?_⟩
  · fin_cases m <;> decide
  · simp [State.reset, apertureReset]
  · cases x <;> exact settingsInRange_settingsReset

theorem SettingsInRange.congr {s t : State} (h : SettingsInRange s) (hside : SameSide s t) (hbranches : t.branches = s.branches) :
    SettingsInRange t := by
  rw [settingsInRange_iff] at h ⊢
  refine ⟨h.1.congr hside.divisor hside.quotas hside.apertures hside.claimWindow hside.resWindow, fun x => ?_⟩
  rw [unitOf, hbranches]
  exact h.2 x

theorem SettingsInRange.lowerTimers {s : State} (h : SettingsInRange s) : SettingsInRange (lowerTimers s) := by
  rw [settingsInRange_iff] at h ⊢
  exact ⟨h.1.congr rfl rfl rfl rfl rfl, fun x => by rw [unitOf_lowerTimers]; exact h.2 x⟩

theorem keptByEvents_settingsInRange : KeptByEvents SettingsInRange where
  part := SettingsInRange.part
  release x s _ h := by
    rw [settingsInRange_iff] at h ⊢
    refine ⟨h.1.congr rfl rfl rfl rfl rfl, fun y => ?_⟩
    rw [unitOf_release]
    exact h.2 y
  refused _ _ h := h
  attention _ _ h := h
  chipReset h := by
    obtain ⟨-, -, -, h4, h50, -⟩ := h
    obtain ⟨hq, hc, hr, -, -, ha, hu⟩ := settingsInRange_reset
    exact ⟨hq, hc, hr, h4, h50, ha, hu⟩
  pinReset _ := settingsInRange_reset
  ticks := keep_tick SettingsInRange.part SettingsInRange.lowerTimers
  queue _ _ h := h

end Sys2Proof.Machine
end

section
/-! Timers (R159): no part leaves a timer at zero that was not there before, and an expiry takes its own timer away. -/

-- One theorem at a time: elaborated side by side, the proofs of this text need more memory than its check allows.
set_option Elab.async false

namespace Sys2Proof.Machine

/-- The timer stands at zero. -/
def AtZero (s : State) : Timer → Prop
  | .claim k => ∃ e ∈ s.entries, e.slot = k ∧ ∃ o d, e.state = .ready o d (some 0)
  | .reservation m => ∃ r, s.reservations.get m = some r ∧ r.remaining = 0
  | .replyWindow x => ∃ tx, (unitOf s x).engine = .await tx 0
  | .parkedHold x => ∃ tx, (unitOf s x).park = some { tx := tx, delay := .waiting 0 }
  | .backoffHold x => ∃ tx, (unitOf s x).engine = .backoff tx 0

theorem timersAboveZero_iff (s : State) : TimersAboveZero s ↔ ∀ t, ¬ AtZero s t := by
  constructor
  · rintro h (k | m | x | x | x)
    · rintro ⟨e, he, -, o, d, hs⟩
      exact h.claims e he o d hs
    · rintro ⟨r, hr, hzero⟩
      exact h.reservations m r hr hzero
    · rintro ⟨tx, he⟩
      exact h.windows x tx he
    · rintro ⟨tx, hp⟩
      exact h.parks x tx hp
    · rintro ⟨tx, he⟩
      exact h.backoffs x tx he
  · intro h
    exact ⟨fun e he o d hs => h (.claim e.slot) ⟨e, he, rfl, o, d, hs⟩, fun m r hr hzero => h (.reservation m) ⟨r, hr, hzero⟩,
      fun x tx he => h (.replyWindow x) ⟨tx, he⟩, fun x tx he => h (.backoffHold x) ⟨tx, he⟩,
      fun x tx hp => h (.parkedHold x) ⟨tx, hp⟩⟩

/-! ### No part brings a timer to zero -/

theorem EntryMove.slot_eq {s : State} {e e' : Entry} (h : EntryMove s e e') : e'.slot = e.slot := by
  cases h with
  | timer n => rw [giveTimer_eq]
  | _ => rfl

/-- A claim timer starts above zero. -/
theorem EntryMove.zero {s : State} {e e' : Entry} (h : EntryMove s e e') {o : Outcome} {d : Option (List Byte)}
    (hzero : e'.state = .ready o d (some 0)) : e.state = .ready o d (some 0) := by
  cases h with
  | same | ahead => exact hzero
  | timer n running =>
    unfold giveTimer at hzero
    split at hzero
    next o' d' hs =>
      injection hzero with _ _ hn
      exact absurd (Option.some.inj hn) running
    next => exact hzero
  | ready o' d' ahead =>
    injection hzero with _ _ hn
    unfold claimStart at hn
    split at hn
    · cases hn
    next hwindow => exact absurd (Option.some.inj hn) (Nat.mul_ne_zero hwindow (by decide))
  | issued => cases hzero

theorem Part.claim_zero {D E : Finset Branch} {s t : State} (h : Part (D, s) (E, t)) {k : Slot} (hz : AtZero t (.claim k)) :
    AtZero s (.claim k) := by
  obtain ⟨e', he', rfl, o, d, hs⟩ := hz
  rcases h.entries with ⟨f, hf, hsub⟩ | ⟨a, w, p, k, -, -, -, hentries⟩
  · obtain ⟨e, he, rfl⟩ := List.mem_map.1 (hsub.subset he')
    exact ⟨e, he, (hf e).slot_eq.symm, o, d, (hf e).zero hs⟩
  · rw [hentries] at he'
    rcases List.mem_append.1 he' with he' | he'
    · exact ⟨e', he', rfl, o, d, hs⟩
    · rw [List.mem_singleton.1 he'] at hs
      cases hs

/-- Reply windows and hold delays start above zero. -/
theorem Column.zero {u v : BranchUnit} (h : Column u v) (hu : settingsInRange u.settings) (tx : Txn) :
    (v.engine = .await tx 0 → u.engine = .await tx 0) ∧ (v.engine = .backoff tx 0 → u.engine = .backoff tx 0) ∧
    (v.park = some { tx := tx, delay := .waiting 0 } → u.park = some { tx := tx, delay := .waiting 0 }) := by
  obtain ⟨-, -, -, -, hwindow, -, hdelay, -⟩ := hu
  cases h with
  | alone ha =>
    cases ha with
    | node n f => simp
    | await tx' rate sent =>
      refine ⟨fun he => ?_, (fun he => nomatch he), id⟩
      injection he with _ hn
      omega
    | park tx' tx'' n =>
      refine ⟨(fun he => nomatch he), (fun he => nomatch he), fun hp => ?_⟩
      injection Option.some.inj hp with _ hd
      injection hd with hn
      omega
    | backoff tx' tx'' n =>
      refine ⟨(fun he => nomatch he), fun he => ?_, id⟩
      injection he with _ hn
      omega
    | startParked => exact ⟨(fun he => nomatch he), (fun he => nomatch he), (fun hp => nomatch hp)⟩
    | startProbe | startPosted | send => exact ⟨(fun he => nomatch he), (fun he => nomatch he), id⟩
    | due tx' n =>
      refine ⟨id, id, fun hp => ?_⟩
      injection Option.some.inj hp with _ hd
      cases hd
    | _ => exact ⟨id, id, id⟩
  | opens ho =>
    cases ho with
    | draining => exact ⟨id, id, id⟩
    | _ => exact ⟨(fun he => nomatch he), (fun he => nomatch he), id⟩
  | entry | finishPosted | finishSlot => exact ⟨(fun he => nomatch he), (fun he => nomatch he), id⟩
  | turn n op => simp
  | held => exact ⟨(fun he => nomatch he), (fun he => nomatch he), (fun hp => nomatch hp)⟩
  | same | depart | complete => exact ⟨id, id, id⟩

/-- The reservations of `t` are those of `s`, or were given to waiting masters of `s` with the whole window. -/
structure Reserves (s t : State) : Prop where
  window : t.resWindow = s.resWindow
  waiting : t.waiting ≠ [] → s.waiting ≠ []
  old_or_full : ∀ m r, t.reservations.get m = some r →
    s.reservations.get m = some r ∨ (r.remaining = s.resWindow * 4 ∧ s.waiting ≠ [])

theorem Reserves.refl (s : State) : Reserves s s := ⟨rfl, id, fun _ _ h => .inl h⟩

theorem Reserves.trans {s t u : State} (h : Reserves s t) (h' : Reserves t u) : Reserves s u where
  window := h'.window.trans h.window
  waiting hu := h.waiting (h'.waiting hu)
  old_or_full m r hr := by
    rcases h'.old_or_full m r hr with ht | ⟨hrem, ht⟩
    · exact h.old_or_full m r ht
    · exact .inr ⟨h.window ▸ hrem, h.waiting ht⟩

/-- The table's masters and windows as they are. -/
theorem Reserves.of_eq {s t : State} (hwindow : t.resWindow = s.resWindow) (hwaiting : t.waiting = s.waiting)
    (hres : t.reservations = s.reservations) : Reserves s t :=
  ⟨hwindow, by rw [hwaiting]; exact id, fun _ _ h => .inl (hres ▸ h)⟩

/-- A reservation ends or is not there. -/
theorem reserves_set_none (m : Master) (s : State) : Reserves s { s with reservations := s.reservations.set m none } := by
  refine ⟨rfl, id, fun n r hr => .inl ?_⟩
  rw [PerMaster.get_set] at hr
  split at hr
  · cases hr
  · exact hr

theorem reserves_handOver (k : Slot) (s : State) : Reserves s (handOver k s) := by
  cases hw : s.waiting with
  | nil =>
    rw [handOver_of_none hw]
    exact .refl s
  | cons m rest =>
    have hne : s.waiting ≠ [] := by rw [hw]; exact List.cons_ne_nil m rest
    rw [handOver_of_head hw]
    refine ⟨rfl, fun _ => hne, fun n r hr => ?_⟩
    rw [PerMaster.get_set] at hr
    split at hr
    · obtain rfl := Option.some.inj hr
      exact .inr ⟨rfl, hne⟩
    · exact .inl hr

theorem reserves_freeSlot (k : Slot) (s : State) : Reserves s (freeSlot k s) :=
  Reserves.trans (t := { s with entries := s.entries.filter (fun e => e.slot ≠ k) }) (.of_eq rfl rfl rfl) (reserves_handOver k _)

theorem reserves_freeSlots (ks : List Slot) (s : State) : Reserves s (ks.foldl (fun t k => freeSlot k t) s) := by
  induction ks generalizing s with
  | nil => exact .refl s
  | cons k ks ih => exact (reserves_freeSlot k s).trans (ih _)

theorem reserves_endReservation (m : Master) (s : State) : Reserves s (endReservation m s) := by
  unfold endReservation
  split
  · exact .refl s
  · exact (reserves_set_none m s).trans (reserves_handOver _ _)

theorem reserves_endDeferred (k : Slot) (en : TxEnd) (s : State) : Reserves s (endDeferred k en s) := by
  unfold endDeferred
  split
  · exact .refl s
  · split
    · exact reserves_freeSlot k s
    · exact .of_eq rfl rfl rfl
    · exact .refl s

theorem Part.reserved {D E : Finset Branch} {s t : State} (h : Part (D, s) (E, t)) (m : Master) (r : Reservation)
    (hr : t.reservations.get m = some r) : s.reservations.get m = some r ∨ (r.remaining = s.resWindow * 4 ∧ s.waiting ≠ []) := by
  cases h with
  | port | knobs | refuse | pop | unwait | wait | resWindow | mark | alone | opens | depart | entry | finishPosted | turn | look =>
    exact .inl hr
  | offer body => exact .inl (by rwa [offer_reservations] at hr)
  | free e => exact (reserves_freeSlot _ s).old_or_full m r hr
  | endReservation n => exact (reserves_endReservation n s).old_or_full m r hr
  | create a w p k => exact (reserves_set_none a.master s).old_or_full m r hr
  | claimWindow w =>
    simp only [writeClaimWindow] at hr
    split at hr <;> exact .inl hr
  | finishSlot x tx k en => exact (reserves_endDeferred k en (disengage x s)).old_or_full m r hr
  | held x =>
    have hheld : Reserves s (onEntries (heldEntry x (unitOf s x).queue.length (claimStart s)) (onUnit x heldUnit s)) :=
      .of_eq rfl rfl rfl
    exact (hheld.trans (reserves_freeSlots _ _)).old_or_full m r hr
  | settle x =>
    unfold completeDrain at hr
    split at hr <;> exact .inl hr

/-- No part brings a timer to zero. -/
theorem Part.atZero {D E : Finset Branch} {s t : State} (h : Part (D, s) (E, t)) (hok : TableOk s) (hrange : SettingsInRange s)
    {τ : Timer} (hz : AtZero t τ) : AtZero s τ := by
  have hcolumn := fun x => (h.column x).zero (((settingsInRange_iff s).1 hrange).2 x)
  cases τ with
  | claim k => exact h.claim_zero hz
  | reservation m =>
    obtain ⟨r, hr, hzero⟩ := hz
    rcases h.reserved m r hr with hold | ⟨hfull, hwaiting⟩
    · exact ⟨r, hold, hzero⟩
    · have hwindow := hok.waiting_window hwaiting
      omega
  | replyWindow x =>
    obtain ⟨tx, he⟩ := hz
    exact ⟨tx, (hcolumn x tx).1 he⟩
  | parkedHold x =>
    obtain ⟨tx, hp⟩ := hz
    exact ⟨tx, (hcolumn x tx).2.2 hp⟩
  | backoffHold x =>
    obtain ⟨tx, he⟩ := hz
    exact ⟨tx, (hcolumn x tx).2.1 he⟩

/-- The timers at zero are among `L`, with what keeps a part from bringing one there. -/
structure ZeroWithin (L : Timer → Prop) (s : State) : Prop where
  table : TableOk s
  ranges : SettingsInRange s
  within : ∀ τ, AtZero s τ → L τ

theorem ZeroWithin.part {L : Timer → Prop} {D E : Finset Branch} {s t : State} (h : Part (D, s) (E, t)) (hz : ZeroWithin L s) :
    ZeroWithin L t :=
  ⟨hz.table.part h, hz.ranges.part h, fun _ hτ => hz.within _ (h.atZero hz.table hz.ranges hτ)⟩

theorem ZeroWithin.parts {L : Timer → Prop} {D E : Finset Branch} {s t : State} (h : Parts D s E t) (hz : ZeroWithin L s) :
    ZeroWithin L t :=
  keep_parts ZeroWithin.part h hz

/-! ### An expiry takes its timer away -/

section Expiry
variable {x : Branch} {s : State}

@[simp] theorem engine_endSource (tx : Txn) (en : TxEnd) (y : Branch) : (unitOf (endSource x tx en s) y).engine = (unitOf s y).engine := by
  unfold endSource
  split
  · unfold endPosted
    split
    · rw [unitOf_offer, unitOf_departHead]
      split <;> rfl
    · rw [unitOf_departHead]
      split <;> rfl
  · rw [unitOf_endDeferred]
  · rw [unitOf_onUnit]
    split <;> rfl
  · rfl

@[simp] theorem engine_endNode (tx : Txn) (en : TxEnd) (y : Branch) : (unitOf (endNode x tx en s) y).engine = (unitOf s y).engine := by
  have hnode : ∀ (n : Node) (f : NodeRecord → NodeRecord), (unitOf (onUnit x (onNode n f) s) y).engine = (unitOf s y).engine := by
    intro n f
    rw [unitOf_onUnit]
    split
    · exact onNode_engine n f _
    · rfl
  unfold endNode
  split
  · rfl
  · split
    · simp only [nodeSilent]
      split
      · rw [unitOf_onEntries, unitOf_offer, hnode]
      · rw [hnode]
    · simp only [nodeReplied]
      split
      · rw [unitOf_offer, hnode]
      · rw [hnode]

/-- The end of a transaction leaves the engine idle. -/
theorem engine_endTxn (tx : Txn) (en : TxEnd) : (unitOf (endTxn x tx en s) x).engine = .idle := by
  unfold endTxn
  generalize hu : endNode x tx en _ = u
  obtain ⟨c, hunit⟩ := unitOf_completeDrain x x u
  rw [hunit, ← hu]
  simp only [engine_endNode, engine_endSource, unitOf_onUnit, if_pos]

theorem engine_silence (tx : Txn) (tx' : Txn) (n : Nat) : (unitOf (silence x tx s) x).engine ≠ .await tx' n := by
  unfold silence
  split
  · simp only [startSend, unitOf_onUnit, if_pos]
    exact fun he => nomatch he
  · rw [engine_endTxn]
    exact fun he => nomatch he

/-- With no slot held twice, a timer that expires at zero runs no more. -/
theorem not_atZero_expire (hok : TableOk s) (τ : Timer) : ¬ AtZero (expire τ s) τ := by
  cases τ with
  | claim k =>
    simp only [expire, expireClaim]
    cases hat : entryAt s k with
    | none =>
      rintro ⟨e, he, rfl, -⟩
      rw [entryAt_of_mem hok.slots_nodup he] at hat
      cases hat
    | some e =>
      obtain ⟨he, rfl⟩ := mem_of_entryAt hat
      have hstay : ∀ o d n, e.state = .ready o d (some n) → ¬ n ≤ 1 → ¬ AtZero s (.claim e.slot) := by
        rintro o d n hs hn ⟨f, hf, hslot, o', d', hz⟩
        rw [hok.eq_of_slot hf he hslot, hs] at hz
        injection hz with _ _ hz
        exact hn ((Option.some.inj hz).le.trans (Nat.zero_le 1))
      simp only
      split
      next o d n hs =>
        split
        · rintro ⟨f, hf, hslot, -⟩
          rw [offer_entries] at hf
          exact (mem_freeSlot.1 hf).2 hslot
        next hn => exact hstay o d n hs hn
      next hnot =>
        rintro ⟨f, hf, hslot, o, d, hz⟩
        exact hnot o d 0 (hok.eq_of_slot hf he hslot ▸ hz)
  | reservation m =>
    simp only [expire, expireReservation]
    cases hr : s.reservations.get m with
    | none =>
      rintro ⟨r, hr', -⟩
      rw [hr] at hr'
      cases hr'
    | some r =>
      simp only
      split
      · rw [endReservation_of_some hr]
        rintro ⟨q, hq, hzero⟩
        have hset : ({ s with reservations := s.reservations.set m none } : State).reservations.get m = none := by simp
        rcases (reserves_handOver r.slot { s with reservations := s.reservations.set m none }).old_or_full m q hq with
          hold | ⟨hfull, hwaiting⟩
        · rw [hset] at hold
          cases hold
        · have hwindow := hok.waiting_window hwaiting
          have hfull' : q.remaining = s.resWindow * 4 := hfull
          omega
      next hn =>
        rintro ⟨q, hq, hzero⟩
        obtain rfl := Option.some.inj (hr.symm.trans hq)
        omega
  | replyWindow x =>
    simp only [expire, expireReplyWindow]
    split
    next tx n he =>
      split
      · rintro ⟨tx', he'⟩
        exact engine_silence tx tx' 0 he'
      next hn =>
        rintro ⟨tx', he'⟩
        rw [he] at he'
        injection he' with _ hz
        omega
    next hnot =>
      rintro ⟨tx', he'⟩
      exact hnot tx' 0 he'
  | parkedHold x =>
    simp only [expire, expireParked]
    split
    next tx n hp =>
      split
      · rintro ⟨tx', hp'⟩
        rw [unitOf_onUnit, if_pos rfl] at hp'
        cases hp'
      next hn =>
        rintro ⟨tx', hp'⟩
        rw [hp] at hp'
        injection Option.some.inj hp' with _ hd
        injection hd with hz
        omega
    next hnot =>
      rintro ⟨tx', hp'⟩
      exact hnot tx' 0 hp'
  | backoffHold x =>
    simp only [expire, expireBackoff]
    split
    next tx n he =>
      split
      · rintro ⟨tx', he'⟩
        rw [startSend, unitOf_onUnit, if_pos rfl] at he'
        cases he'
      next hn =>
        rintro ⟨tx', he'⟩
        rw [he] at he'
        injection he' with _ hz
        omega
    next hnot =>
      rintro ⟨tx', he'⟩
      exact hnot tx' 0 he'

theorem ZeroWithin.expire {τ : Timer} {due : List Timer} (h : ZeroWithin (· ∈ τ :: due) s) : ZeroWithin (· ∈ due) (expire τ s) := by
  have hnot := not_atZero_expire h.table τ
  obtain ⟨htable, hranges, hwithin⟩ := h.parts (parts_expire τ)
  refine ⟨htable, hranges, fun σ hσ => ?_⟩
  rcases List.mem_cons.1 (hwithin σ hσ) with rfl | hmem
  · exact absurd hσ hnot
  · exact hmem

theorem ZeroWithin.expiries {due : List Timer} (h : ZeroWithin (· ∈ due) s) :
    ZeroWithin (· ∈ ([] : List Timer)) (due.foldl (fun u τ => Machine.expire τ u) s) := by
  induction due generalizing s with
  | nil => exact h
  | cons τ due ih => exact ih h.expire

end Expiry

theorem atZero_iff {s : State} (h : TableOk s) (τ : Timer) : AtZero s τ ↔ timeLeft τ s = some 0 := by
  cases τ with
  | claim k =>
    simp only [AtZero, timeLeft]
    constructor
    · rintro ⟨e, he, rfl, o, d, hs⟩
      simp [entryAt_of_mem h.slots_nodup he, hs]
    · intro hl
      cases hat : entryAt s k with
      | none => simp [hat] at hl
      | some e =>
        obtain ⟨he, hslot⟩ := mem_of_entryAt hat
        rcases hs : e.state with _ | _ | ⟨o, d, left⟩ <;> simp [hat, hs] at hl
        exact ⟨e, he, hslot, o, d, by rw [hs, hl]⟩
  | reservation m => simp [AtZero, timeLeft]
  | replyWindow x => cases he : (unitOf s x).engine <;> simp [AtZero, timeLeft, he]
  | parkedHold x => rcases hp : (unitOf s x).park with _ | ⟨tx, n | _⟩ <;> simp [AtZero, timeLeft, hp]
  | backoffHold x => cases he : (unitOf s x).engine <;> simp [AtZero, timeLeft, he]

/-- A tick: the timers it brings to zero are those that expire in it. -/
theorem ZeroWithin.tick {s : State} (h : ZeroWithin (fun _ => False) s) (order : List Timer) :
    ZeroWithin (fun _ => False) (tick order s) := by
  have hlower : ZeroWithin (· ∈ expiryOrder order (lowerTimers s)) (lowerTimers s) :=
    ⟨h.table.lowerTimers, h.ranges.lowerTimers, fun τ hτ => mem_expiryOrder.2 ((atZero_iff h.table.lowerTimers τ).1 hτ)⟩
  obtain ⟨htable, hranges, hwithin⟩ := hlower.expiries
  exact ⟨htable, hranges, fun τ hτ => List.not_mem_nil (hwithin τ hτ)⟩

theorem timersAboveZero_reset : TimersAboveZero State.reset := by
  refine ⟨fun _ he => (nomatch he), fun m r hr => ?_, fun x tx he => ?_, fun x tx he => ?_, fun x tx hp => ?_⟩
  · fin_cases m <;> cases hr
  all_goals cases x <;> contradiction

theorem zeroWithin_iff (s : State) : ZeroWithin (fun _ => False) s ↔ TableOk s ∧ SettingsInRange s ∧ TimersAboveZero s :=
  ⟨fun h => ⟨h.table, h.ranges, (timersAboveZero_iff s).2 h.within⟩, fun ⟨htable, hranges, htimers⟩ =>
    ⟨htable, hranges, (timersAboveZero_iff s).1 htimers⟩⟩

theorem keptByEvents_zeroWithin : KeptByEvents (ZeroWithin fun _ => False) where
  part := ZeroWithin.part
  release x s hheld h := by
    refine ⟨h.table.onUnit x _, keptByEvents_settingsInRange.release x hheld h.ranges, fun τ hτ => h.within τ ?_⟩
    cases τ with
    | claim k => exact hτ
    | reservation m => exact hτ
    | parkedHold y =>
      obtain ⟨tx, hp⟩ := hτ
      rw [unitOf_release] at hp
      exact ⟨tx, hp⟩
    | replyWindow y =>
      obtain ⟨tx, he⟩ := hτ
      rw [unitOf_onUnit] at he
      split at he
      · cases he
      · exact ⟨tx, he⟩
    | backoffHold y =>
      obtain ⟨tx, he⟩ := hτ
      rw [unitOf_onUnit] at he
      split at he
      · cases he
      · exact ⟨tx, he⟩
  refused _ _ h := ⟨h.table.congr rfl rfl rfl rfl, h.ranges, fun τ hτ => h.within τ (by cases τ <;> exact hτ)⟩
  attention _ _ h := ⟨h.table.congr rfl rfl rfl rfl, h.ranges, fun τ hτ => h.within τ (by cases τ <;> exact hτ)⟩
  chipReset h := (zeroWithin_iff _).2 ⟨tableOk_reset.congr rfl rfl rfl rfl, keptByEvents_settingsInRange.chipReset h.ranges,
    timersAboveZero_reset.1, timersAboveZero_reset.2, timersAboveZero_reset.3, timersAboveZero_reset.4, timersAboveZero_reset.5⟩
  pinReset _ := (zeroWithin_iff _).2 ⟨tableOk_reset.congr rfl rfl rfl rfl, settingsInRange_reset,
    timersAboveZero_reset.1, timersAboveZero_reset.2, timersAboveZero_reset.3, timersAboveZero_reset.4, timersAboveZero_reset.5⟩
  ticks order _ h := h.tick order
  queue _ _ h := ⟨h.table.congr rfl rfl rfl rfl, h.ranges, fun τ hτ => h.within τ (by cases τ <;> exact hτ)⟩

/-- Settles O35: settings, counts and probe sets part by part; a timer starts above zero, and one that a tick brings to zero expires in
that tick. -/
theorem stepKeepsRanges : Obligations.StepKeepsRanges :=
  ⟨fun _ _ hs hstep => keptByEvents_settingsInRange.step hs hstep, fun _ _ hs hstep => keptByEvents_countsInRange.step hs hstep,
    fun _ _ hs hstep => keptByEvents_probeSetsOk.step hs hstep, fun _ t hok hrange htimers hstep =>
      ((zeroWithin_iff t).1 (keptByEvents_zeroWithin.step ((zeroWithin_iff _).2 ⟨hok, hrange, htimers⟩) hstep)).2.2⟩

end Sys2Proof.Machine
end

section
/-! The Record Queue and the sticky flags under a step (chapter 9), and the state after reset. -/

-- One theorem at a time: elaborated side by side, the proofs of this text need more memory than its check allows.
set_option Elab.async false

namespace Sys2Proof.Machine

/-! ### The Record Queue -/

theorem RecordsDense.congr {s t : State} (h : RecordsDense s) (hrecords : t.records = s.records)
    (hcounter : t.recordCounter = s.recordCounter) : RecordsDense t := by
  unfold RecordsDense
  rw [hcounter]
  refine ⟨hrecords ▸ h.1, fun i hi => ?_⟩
  simp only [hrecords] at hi ⊢
  exact h.2 i hi

theorem RecordsDense.offer {s : State} (h : RecordsDense s) (body : RecordBody) : RecordsDense (offer body s) := by
  obtain ⟨hle, hseq⟩ := h
  by_cases hroom : s.records.length < 16
  · rw [offer_of_room body hroom]
    refine ⟨by simpa [Config.recordDepth] using hroom, fun i hi => ?_⟩
    rw [List.length_append, List.length_singleton] at hi
    simp only [List.getElem_append, List.length_append, List.length_singleton]
    split
    next hlt =>
      have hsub : s.records.length + 1 - i = (s.records.length - i) + 1 := by omega
      rw [hseq i hlt, hsub, BitVec.ofNat_add]
      generalize BitVec.ofNat 8 (s.records.length - i) = b
      generalize s.recordCounter = c
      bv_omega
    next hlt =>
      obtain rfl : i = s.records.length := by omega
      simp
  · rw [offer_of_full body (by omega)]
    exact ⟨hle, hseq⟩

theorem RecordsDense.pop {s : State} (h : RecordsDense s) : RecordsDense (popRecord s) := by
  obtain ⟨hle, hseq⟩ := h
  refine ⟨(List.length_tail ▸ Nat.sub_le _ 1).trans hle, fun i hi => ?_⟩
  simp only [popRecord, List.length_tail] at hi
  simp only [popRecord, List.getElem_tail, List.length_tail]
  rw [hseq (i + 1) (by omega)]
  congr 2
  omega

theorem RecordsDense.part {D E : Finset Branch} {s t : State} (hp : Part (D, s) (E, t)) (h : RecordsDense s) : RecordsDense t := by
  cases hp.side with
  | same hs => exact h.congr hs.records hs.counter
  | offer body heq => exact heq ▸ h.offer body
  | pop heq => exact heq ▸ h.pop
  | claimWindow w heq =>
    subst heq
    simp only [writeClaimWindow]
    split <;> exact h
  | knobs _ _ _ _ heq | refuse heq | resWindow _ heq | drained _ heq => exact heq ▸ h.congr rfl rfl

theorem recordsDense_reset : RecordsDense State.reset := ⟨Nat.zero_le _, fun _ hi => nomatch hi⟩

theorem keptByEvents_recordsDense : KeptByEvents RecordsDense where
  part := RecordsDense.part
  release _ _ _ h := h
  refused _ _ h := h
  attention _ _ h := h
  chipReset h := h
  pinReset _ := recordsDense_reset
  ticks := keep_tick RecordsDense.part fun h => h
  queue _ _ h := h

/-- Settles O26: records join at the tail with the counter's number and leave at the head. -/
theorem stepKeepsRecordsDense : Obligations.StepKeepsRecordsDense :=
  fun _ _ hs hstep => keptByEvents_recordsDense.step hs hstep

/-! ### The sticky flags -/

/-- The flags of `s` are set in `t`. -/
structure FlagsKept (s t : State) : Prop where
  refused : s.commandRefused = true → t.commandRefused = true
  overrun : s.overrun = true → t.overrun = true
  quiesced : ∀ x, s.quiescedFlags.get x = true → t.quiescedFlags.get x = true

theorem FlagsKept.refl (s : State) : FlagsKept s s := ⟨id, id, fun _ => id⟩

theorem FlagsKept.trans {s t u : State} (h : FlagsKept s t) (h' : FlagsKept t u) : FlagsKept s u :=
  ⟨fun hs => h'.refused (h.refused hs), fun hs => h'.overrun (h.overrun hs), fun x hs => h'.quiesced x (h.quiesced x hs)⟩

/-- Where flags are kept none is cleared. -/
theorem FlagsKept.nothing_cleared {s t u : State} (h : FlagsKept s t) {A B : Prop} {C : Branch → Prop}
    (hrefused : u.commandRefused = s.commandRefused := by rfl) (hoverrun : u.overrun = s.overrun := by rfl)
    (hquiesced : u.quiescedFlags = s.quiescedFlags := by rfl) :
    (u.commandRefused = true → t.commandRefused = false → A) ∧ (u.overrun = true → t.overrun = false → B) ∧
      ∀ x, u.quiescedFlags.get x = true → t.quiescedFlags.get x = false → C x := by
  rw [hrefused, hoverrun, hquiesced]
  exact ⟨fun hs ht => absurd (h.refused hs) (by simp [ht]), fun hs ht => absurd (h.overrun hs) (by simp [ht]),
    fun x hs ht => absurd (h.quiesced x hs) (by simp [ht])⟩

theorem Part.flagsKept {D E : Finset Branch} {s t : State} (hp : Part (D, s) (E, t)) : FlagsKept s t := by
  cases hp.side with
  | same hs => exact ⟨by rw [hs.refused]; exact id, by rw [hs.overrun]; exact id, fun x => by rw [hs.quiesced]; exact id⟩
  | refuse heq => exact heq ▸ ⟨fun _ => rfl, id, fun _ => id⟩
  | offer body heq =>
    subst heq
    unfold Machine.offer
    split
    · exact ⟨id, id, fun _ => id⟩
    · exact ⟨id, fun _ => rfl, fun _ => id⟩
  | drained x heq =>
    subst heq
    refine ⟨id, id, fun y hy => ?_⟩
    simp only [drainedState, PerBranch.get_set]
    split
    · rfl
    · exact hy
  | claimWindow w heq =>
    subst heq
    simp only [writeClaimWindow]
    split <;> exact ⟨id, id, fun _ => id⟩
  | knobs _ _ _ _ heq | pop heq | resWindow _ heq => exact heq ▸ ⟨id, id, fun _ => id⟩

theorem Parts.flagsKept {D E : Finset Branch} {s t : State} (h : Parts D s E t) : FlagsKept s t :=
  keep_parts (P := FlagsKept s) (fun hp hu => hu.trans hp.flagsKept) h (.refl s)

/-- The three registers that clear or reset flags stand at one offset each. -/
def FlagReg (o : Nat) (r : Reg) : Prop :=
  (r = .chipReset → o = 0x004) ∧ (r = .commandRefused → o = 0x020) ∧ (r = .attentionStatus → o = 0x048)

theorem flagReg_fixedReg {o : Nat} {r : Reg} (h : fixedReg o = some r) : FlagReg o r := by
  unfold fixedReg at h
  split at h <;> cases h <;> simp [FlagReg]

theorem flagReg_branchReg {x : Branch} {w o : Nat} {r : Reg} (h : branchReg x w = some r) : FlagReg o r := by
  unfold branchReg at h
  split at h
  case h_5 => split at h <;> cases h; simp [FlagReg]
  all_goals cases h; simp [FlagReg]

theorem flagReg_of_regAt {o : Nat} {r : Reg} (h : regAt o = some r) : FlagReg o r := by
  unfold regAt at h
  dsimp only at h
  have other : ∀ r' : Reg, some r' = some r → r' ≠ .chipReset → r' ≠ .commandRefused → r' ≠ .attentionStatus → FlagReg o r := by
    rintro r' hr h1 h2 h3
    obtain rfl := Option.some.inj hr
    exact ⟨fun h => absurd h h1, fun h => absurd h h2, fun h => absurd h h3⟩
  rcases ite_eq_iff.1 h with ⟨-, h⟩ | ⟨-, h⟩
  · cases h
  rcases ite_eq_iff.1 h with ⟨-, h⟩ | ⟨-, h⟩
  · exact flagReg_fixedReg h
  rcases ite_eq_iff.1 h with ⟨-, h⟩ | ⟨-, h⟩
  · split at h <;> exact other _ h nofun nofun nofun
  rcases ite_eq_iff.1 h with ⟨-, h⟩ | ⟨-, h⟩
  · cases h
  rcases ite_eq_iff.1 h with ⟨-, h⟩ | ⟨-, h⟩
  · exact flagReg_branchReg h
  rcases ite_eq_iff.1 h with ⟨-, h⟩ | ⟨-, h⟩
  · cases h
  rcases ite_eq_iff.1 h with ⟨-, h⟩ | ⟨-, h⟩
  · rcases dite_eq_iff.1 h with ⟨_, h⟩ | ⟨_, h⟩
    · exact other _ h nofun nofun nofun
    · cases h
  rcases ite_eq_iff.1 h with ⟨-, h⟩ | ⟨-, h⟩
  · exact other _ h nofun nofun nofun
  rcases ite_eq_iff.1 h with ⟨-, h⟩ | ⟨-, h⟩
  · cases h
  rcases ite_eq_iff.1 h with ⟨-, h⟩ | ⟨-, h⟩
  · exact other _ h nofun nofun nofun
  rcases ite_eq_iff.1 h with ⟨-, h⟩ | ⟨-, h⟩
  · cases h
  rcases dite_eq_iff.1 h with ⟨_, h⟩ | ⟨_, h⟩
  · split at h <;> exact other _ h nofun nofun nofun
  · cases h

/-- A write to one of the rows' offsets, from a well-formed command, is the command of that row. -/
theorem writeOf_of_writes {c : Instr} {a : Access} {r : Reg} (hwf : c.wf = true) (h : Writes c a r)
    (hown : hasOwnRow a.addr.toNat = true) : ∃ m o w, writeOf c = some (m, o, w) ∧ a = regWrite m o w := by
  obtain ⟨ha, hkind, hwidth, -⟩ := h
  cases hw : writeOf c with
  | some p =>
    obtain ⟨m, o, w⟩ := p
    rw [accessOf_of_writeOf hw, Option.some.injEq] at ha
    exact ⟨m, o, w, rfl, ha.symm⟩
  | none =>
    exfalso
    have hcode : a.widthCode = 2 := by simpa [widthOf_eq_some_iff] using ((alignedWidth_eq_some_iff a .w4).1 hwidth).1
    have hlt : a.addr.toNat < 4096 := by
      simp only [hasOwnRow, List.contains_eq_mem, List.mem_cons, List.not_mem_nil, or_false, decide_eq_true_eq] at hown
      omega
    cases c <;> simp [accessOf, writeOf] at ha hw
    case hostAccess => subst ha; simp [Instr.wf, Access.wf, isRegisterWrite, hkind, hlt, hcode] at hwf
    case registerWrite m o code w =>
      subst ha
      have haddr : (o.setWidth 22).toNat = o.toNat := BitVec.toNat_setWidth_of_le (by decide)
      simp only [haddr] at hown
      simp_all [Instr.wf]

/-- The offset and the word of a well-formed write to a flag's register. -/
theorem row_of_writes {c : Instr} {a : Access} {r : Reg} {o : Nat} (hwf : c.wf = true) (h : Writes c a r) (haddr : a.addr.toNat = o)
    (hown : hasOwnRow o = true) : ∃ m, writeOf c = some (m, o, a.lanes) := by
  subst haddr
  obtain ⟨m, o, w, hw, rfl⟩ := writeOf_of_writes hwf h hown
  have hlt : o < 4096 := by
    cases c <;> simp only [writeOf, Option.some.injEq, Prod.mk.injEq, reduceCtorEq] at hw <;> obtain ⟨-, rfl, -⟩ := hw
    case quiesce x | resume x | hold x | release x | unknownBranchCommand x _ => exact branchCommand_offset_lt x
    all_goals decide
  exact ⟨m, by rw [hw, regWrite_addr_toNat hlt]; rfl⟩

theorem eq_of_writeOf_refused {c : Instr} {m : Master} {w : Word} (h : writeOf c = some (m, 0x020, w)) : c = .commandRefusedClear m := by
  cases c <;> simp only [writeOf, Option.some.injEq, Prod.mk.injEq, reduceCtorEq] at h <;> obtain ⟨rfl, ho, -⟩ := h
  case commandRefusedClear => rfl
  all_goals omega

theorem eq_of_writeOf_chipReset {c : Instr} {m : Master} {w : Word} (h : writeOf c = some (m, 0x004, w)) : c = .chipReset m := by
  cases c <;> simp only [writeOf, Option.some.injEq, Prod.mk.injEq, reduceCtorEq] at h <;> obtain ⟨rfl, ho, -⟩ := h
  case chipReset => rfl
  all_goals omega

theorem eq_of_writeOf_attention {c : Instr} {m : Master} {w : Word} (h : writeOf c = some (m, 0x048, w)) :
    (c = .overrunClear m ∧ w = 2) ∨ ∃ flags, c = .quiescedClear m flags ∧ w = flags.setWidth 32 <<< 4 := by
  cases c <;> simp only [writeOf, Option.some.injEq, Prod.mk.injEq, reduceCtorEq] at h <;> obtain ⟨rfl, ho, hw⟩ := h
  case overrunClear => exact .inl ⟨rfl, hw.symm⟩
  case quiescedClear flags => exact .inr ⟨flags, rfl, hw.symm⟩
  all_goals omega

/-- OVERRUN_CLEAR's word names no QUIESCED flag. -/
theorem quiescedFlags_overrunWord (s : State) : (writeAttentionStatus 2 s).quiescedFlags = s.quiescedFlags := by
  simp [writeAttentionStatus, flagOf]

/-- QUIESCED_CLEAR's word holds a flag per branch from bit 4 and not the overrun flag. -/
theorem flags_quiescedWord (flags : BitVec 4) (s : State) :
    (writeAttentionStatus (flags.setWidth 32 <<< 4) s).overrun = s.overrun ∧
    (writeAttentionStatus (flags.setWidth 32 <<< 4) s).quiescedFlags =
      ⟨s.quiescedFlags.a && !flags.getLsbD 0, s.quiescedFlags.b && !flags.getLsbD 1,
       s.quiescedFlags.c && !flags.getLsbD 2, s.quiescedFlags.d && !flags.getLsbD 3⟩ := by
  simp [writeAttentionStatus, flagOf]

/-- Settles O22: parts only set flags; the two writes that clear one, and the resets, are the commands named. -/
theorem stickyFlagsStay : Obligations.StickyFlagsStay := by
  intro c s t hwf hexec
  cases event_of_exec hexec with
  | parts hp => exact hp.flagsKept.nothing_cleared
  | release a x => exact (FlagsKept.refl s).nothing_cleared
  | tick order => exact (parts_expiries (s := lowerTimers s) _).flagsKept.nothing_cleared
  | pinReset h => exact ⟨fun _ _ => .inr h, fun _ _ => .inr h, fun _ _ _ => .inr (.inr h)⟩
  | chipReset a h one =>
    obtain ⟨m, hw⟩ := row_of_writes hwf h ((flagReg_of_regAt h.2.2.2).1 rfl) rfl
    have hc := eq_of_writeOf_chipReset hw
    exact ⟨fun _ _ => .inl ⟨m, .inr hc⟩, fun hs ht => absurd (hs.symm.trans ht) (by decide), fun _ _ _ => .inr (.inl ⟨m, hc⟩)⟩
  | refusedWrite a h =>
    obtain ⟨m, hw⟩ := row_of_writes hwf h ((flagReg_of_regAt h.2.2.2).2.1 rfl) rfl
    exact ⟨fun _ _ => .inl ⟨m, .inl (eq_of_writeOf_refused hw)⟩, fun hs ht => absurd (hs.symm.trans ht) (by decide),
      fun _ hs ht => absurd (hs.symm.trans ht) (by decide)⟩
  | attentionWrite a h =>
    obtain ⟨m, hw⟩ := row_of_writes hwf h ((flagReg_of_regAt h.2.2.2).2.2 rfl) rfl
    refine ⟨fun hs ht => absurd (hs.symm.trans ht) (by decide), ?_⟩
    rcases eq_of_writeOf_attention hw with ⟨hc, hlanes⟩ | ⟨flags, hc, hlanes⟩ <;> rw [hlanes]
    · refine ⟨fun _ _ => .inl ⟨m, hc⟩, fun x hs ht => ?_⟩
      rw [respond_quiescedFlags, quiescedFlags_overrunWord, hs] at ht
      cases ht
    · obtain ⟨hoverrun, hquiesced⟩ := flags_quiescedWord flags s
      refine ⟨fun hs ht => ?_, fun x hs ht => .inl ⟨m, flags, hc, ?_⟩⟩
      · rw [respond_overrun, hoverrun, hs] at ht
        cases ht
      · rw [respond_quiescedFlags, hquiesced] at ht
        cases x <;> simp_all [PerBranch.get, branchCode]

/-! ### The state after reset -/

/-- Settles O36: invariant by invariant. -/
theorem resetMeetsEveryInvariant : Obligations.ResetMeetsEveryInvariant := by
  have hcolumns : ∀ {Q : BranchUnit → Prop}, Q branchReset → ∀ x, Q (unitOf State.reset x) := fun h x => by cases x <;> exact h
  refine ⟨recordsDense_reset, tableOk_reset, .nil, fun _ he => (nomatch he), fun _ he => (nomatch he),
    (columnsOk_iff _).2 ⟨hcolumns shape_reset, workPlaced_reset⟩, flightsOk_reset, hcolumns (Q := ApartOk) (.of_unparked rfl),
    fun _ _ he => (nomatch he), noDrainLeftOpen_reset, settingsInRange_reset, hcolumns (Q := CountsOk) countsOk_reset,
    hcolumns (Q := ProbesOk) ⟨.nil, List.not_mem_nil⟩, timersAboveZero_reset⟩

end Sys2Proof.Machine
end

section
/-! Admission of accesses to nodes (chapters 2 and 3): claims, decode faults, the branch's and the node's state, and the two routes. -/

-- One theorem at a time: elaborated side by side, the proofs of this text need more memory than its check allows.
set_option Elab.async false

namespace Sys2Proof.Machine

/-! ### Claims -/

theorem claimBytes_eq (e : Entry) (a : HostAddr) (w : Width) (d : List Byte) :
    claimBytes e a w d = if e.wordFetch then (d.drop (a.toNat % 4)).take w.bytes else d := by
  have hoffset : a.toNat - wordAddr a = a.toNat % 4 := by
    unfold wordAddr
    omega
  rw [claimBytes, hoffset]

/-- The answer to a claim, by the outcome and the kind (R31 to R34). -/
theorem claimResponse_eq {a : Access} {e : Entry} (hkind : e.kind = a.kind) (w : Width) (o : Outcome) (d : Option (List Byte)) (s : State) :
    claimResponse a w e o d s = respond a.master (claimAnswer a w e o d).1 (claimAnswer a w e o d).2 s := by
  by_cases ho : o = .ok
  · subst ho
    cases hk : a.kind <;> simp [claimResponse, claimAnswer, hkind, hk, respondData, respondTaken, claimBytes_eq]
  · have hfailed : claimResponse a w e o d s = respondFailed a w e.errorMode s := by
      unfold claimResponse
      split
      · exact absurd rfl ho
      · exact absurd rfl ho
      · rfl
    rw [hfailed, respondFailed_eq, claimAnswer, if_neg ho]

/-- Settles O11: the claim is answered on the state whose slot is freed. -/
theorem repeatOfReadyEntryClaimsIt : Obligations.RepeatOfReadyEntryClaimsIt := by
  intro a w e o d left s hsearch hmatch hstate
  have hanswer : answerRepeat a w e s =
      respond a.master (claimAnswer a w e o d).1 (claimAnswer a w e o d).2 (freeSlot e.slot s) := by
    rw [answerRepeat, hstate]
    exact claimResponse_eq hmatch.1.2.1 w o d _
  have hexec : exec (.hostAccess a) s =
      .next (respond a.master (claimAnswer a w e o d).1 (claimAnswer a w e o d).2 (freeSlot e.slot s)) := by
    rw [exec_hostAccess_of_repeat hsearch hmatch, hanswer]
  exact ⟨_, hexec, freeSlot_handedOver e.slot s,
    congrArg (respond a.master (claimAnswer a w e o d).1 (claimAnswer a w e o d).2) (freeSlot_frame e.slot s)⟩

/-! ### Decode -/

/-- Settles O12: the three tests of a new request in their order. -/
theorem decodeFaults : Obligations.DecodeFaults := by
  intro a w s hdecode
  rw [exec_hostAccess, runAdmission_of_reachesDecode hdecode, newRequest]
  refine ⟨fun hnone => ?_, fun n hn => ?_⟩
  · rw [decodeAperture_eq_none hnone]
    simp only [accessFault_eq]
  · rw [decodeAperture_eq_some hn]
    refine ⟨fun hnot => ?_, fun hpermits hread hnode => ?_⟩
    · have hpermitted : permitted s.apertures[n.val] a.kind = false := by rwa [← Bool.not_eq_true, permitted_iff]
      simp only [hpermitted, if_pos, accessFault_eq]
    · have hpermitted := (permitted_iff _ _).2 hpermits
      simp only [hpermitted, Bool.true_eq_false, if_false, if_pos (And.intro hread hnode), accessFault_eq]

/-! ### The branch and the node -/

/-- Settles O13: the branch's state decides first, then the node's. -/
theorem branchAndNodeStateAtAdmission : Obligations.BranchAndNodeStateAtAdmission := by
  intro a w n p s hreach hp
  subst hp
  rw [exec_hostAccess, runAdmission_of_reachesBranch hreach, admitDecoded]
  refine ⟨fun hheld => ?_, fun hpaused => ?_, fun hactive hoffline hposted => ?_, fun hactive hoffline hdeferred => ?_⟩
  · rw [hheld, ← respondFailed_eq]
  · rw [← respondRetry_eq]
    rcases hpaused with hc | hc <;> rw [hc]
  · rw [hactive]
    simp only [admitActive, hoffline, (postedRoute_iff _ _).2 hposted]
    rfl
  · have hroute : postedRoute s.apertures[n.val] a.kind = false := by rwa [← Bool.not_eq_true, postedRoute_iff]
    rw [hactive, ← respondFailed_eq]
    simp only [admitActive, hoffline, hroute]

/-! ### The two routes -/

/-- Settles O14: the queue is full or takes the record. -/
theorem Settled.postedRoute : Obligations.PostedRoute := by
  intro a w n p s hreach hp hposted
  subst hp
  rw [exec_hostAccess, runAdmission_of_posted hreach hposted, admitPosted]
  refine ⟨fun hfull => ?_, fun hroom => ?_⟩
  · rw [if_pos (show Config.postedDepth ≤ _ from hfull), respondRetry_eq, hposted.1]
    rfl
  · rw [if_neg (show ¬ Config.postedDepth ≤ _ from Nat.not_le.2 hroom), newPosted_eq hposted.1]
    rfl

theorem createEntry_eq (a : Access) (w : Width) (p : Aperture) (k : Slot) (s : State) : createEntry a w p k s =
    respond a.master .retry (noData a.kind)
      { s with entries := s.entries ++ [entryOf a w p (unitOf s p.branch).queue.length k] } := by
  rw [createEntry, respondRetry_eq, newEntry_eq]

/-- Settles O15: the quota check, then the three places a slot may come from. -/
theorem deferredRoute : Obligations.DeferredRoute := by
  intro a w n p s hreach hp hdeferred
  subst hp
  rw [exec_hostAccess, runAdmission_of_deferred hreach hdeferred]
  refine ⟨fun hzero => ?_, fun hquota hcount => ?_, fun hcount => ?_⟩
  · simp only [admitDeferred, hzero, if_pos, accessFault_eq]
  · have hlive : s.quotas.get a.master ≤ liveCount s a.master := hcount
    simp only [admitDeferred]
    rw [if_neg hquota, if_pos hlive, respondRetry_eq]
  · have hchoose : admitDeferred a w s.apertures[n.val] s = chooseSlot a w s.apertures[n.val] s := by
      have hlive : ¬ s.quotas.get a.master ≤ liveCount s a.master := Nat.not_le.2 hcount
      simp only [admitDeferred]
      rw [if_neg (Nat.ne_zero_of_lt hcount), if_neg hlive]
    rw [hchoose]
    refine ⟨fun r hr => ?_, fun hnone => ⟨fun k hopen hlowest => ?_, fun hclosed => ?_⟩⟩
    · simp only [chooseSlot, hr, createEntry_eq]
      rfl
    · simp only [chooseSlot, hnone, lowestOpen_eq_some hopen hlowest, createEntry_eq]
    · simp only [chooseSlot, hnone, lowestOpen_eq_none hclosed, respondRetry_eq, joinWaiting]
      split <;> rfl

end Sys2Proof.Machine
end

section
/-! Commands of one effect (sections 1.5, 2.5, 6.4, 7.5 to 7.7, 8.2, 9.5, 10.3 and 10.4): window writes, flags, PROBE and REVIVE, the resets,
the expiries and the tick, and events that do not arise. -/

-- One theorem at a time: elaborated side by side, the proofs of this text need more memory than its check allows.
set_option Elab.async false

namespace Sys2Proof.Machine

/-! ### Windows, enables and flags -/

section Run
variable {s : State} (hrun : s.phase = .run) (m : Master)
include hrun

theorem exec_claimWindowWrite_of_run (w : Word) :
    exec (.claimWindowWrite m w) s = .next (respond m .complete none (writeClaimWindow w s)) :=
  congrArg _ (registerCommand_of_run hrun m _)

theorem exec_reservationWindowWrite_of_run (w : Word) :
    exec (.reservationWindowWrite m w) s = .next (respond m .complete none (writeResWindow w s)) :=
  congrArg _ (registerCommand_of_run hrun m _)

theorem exec_attentionEnablesWrite_of_run (w : Word) :
    exec (.attentionEnablesWrite m w) s = .next (respond m .complete none (writeEnables w s)) :=
  congrArg _ (registerCommand_of_run hrun m _)

theorem exec_commandRefusedClear_of_run :
    exec (.commandRefusedClear m) s = .next (respond m .complete none (writeCommandRefused 1 s)) :=
  congrArg _ (registerCommand_of_run hrun m _)

theorem exec_overrunClear_of_run : exec (.overrunClear m) s = .next (respond m .complete none (writeAttentionStatus 2 s)) :=
  congrArg _ (registerCommand_of_run hrun m _)

theorem exec_quiescedClear_of_run (flags : BitVec 4) :
    exec (.quiescedClear m flags) s = .next (respond m .complete none (writeAttentionStatus (flags.setWidth 32 <<< 4) s)) :=
  congrArg _ (registerCommand_of_run hrun m _)

theorem exec_chipReset_of_run : exec (.chipReset m) s = .next (respond m .complete none (chipResetState s)) :=
  congrArg _ (registerCommand_of_run hrun m _)

end Run

theorem toNat_eq_zero_iff {n : Nat} (v : BitVec n) : v.toNat = 0 ↔ v = 0 :=
  ⟨fun h => BitVec.eq_of_toNat_eq h, fun h => h ▸ rfl⟩

/-- Settles O17: both windows are stored as the field of the word. -/
theorem windowWrites : Obligations.WindowWrites := by
  refine ⟨fun m w s hrun => ?_, fun m w s hrun => ?_⟩
  · have hzero : fieldOf w 0 12 ≠ 0 ↔ w.extractLsb' 0 12 ≠ 0 := by
      rw [fieldOf_eq_extractLsb', ne_eq, toNat_eq_zero_iff]
    rw [exec_claimWindowWrite_of_run hrun]
    simp only [writeClaimWindow, ← hzero]
    split <;> rfl
  · have hzero : fieldOf w 0 8 = 0 ↔ w.extractLsb' 0 8 = 0 := by
      rw [fieldOf_eq_extractLsb', toNat_eq_zero_iff]
    rw [exec_reservationWindowWrite_of_run hrun]
    simp only [writeResWindow, hzero]
    rfl

theorem attn_iff (s : State) : attn s = true ↔
    (s.records ≠ [] ∧ s.enables.recordPending = true) ∨ (s.overrun = true ∧ s.enables.overrun = true) ∨
      ∃ x, s.quiescedFlags.get x = true ∧ s.enables.quiesced.get x = true := by
  have hall : ∀ x, x ∈ allBranches := fun x => by cases x <;> decide
  simp [attn, recordPending, hall, or_assoc]

/-- Settles O19: the enables are the bits of the word. -/
theorem enablesAndAttention : Obligations.EnablesAndAttention := by
  refine ⟨fun m w s hrun => ?_, attn_iff⟩
  rw [exec_attentionEnablesWrite_of_run hrun]
  rfl

/-- Settles O21: the clearing commands write the words that name their flags. -/
theorem flagsAreClearedByOnes : Obligations.FlagsAreClearedByOnes := by
  intro m s hrun
  refine ⟨?_, ?_, fun flags => ?_, fun w => ⟨?_, ?_⟩⟩
  · have hone : writeCommandRefused 1 s = { s with commandRefused := false } := by simp [writeCommandRefused, flagOf]
    rw [exec_commandRefusedClear_of_run hrun, hone]
  · have htwo : writeAttentionStatus 2 s = { s with overrun := false } := by simp [writeAttentionStatus, flagOf]
    rw [exec_overrunClear_of_run hrun, htwo]
  · obtain ⟨hoverrun, hquiesced⟩ := flags_quiescedWord flags s
    have hflags : writeAttentionStatus (flags.setWidth 32 <<< 4) s =
        { s with quiescedFlags := (writeAttentionStatus (flags.setWidth 32 <<< 4) s).quiescedFlags } := by
      conv_rhs => rw [← hoverrun]
      rfl
    rw [exec_quiescedClear_of_run hrun, hflags, hquiesced]
  · exact exec_registerWrite_of_effect hrun (r := .commandRefused) rfl rfl m
  · exact exec_registerWrite_of_effect hrun (r := .attentionStatus) rfl rfl m

/-! ### PROBE and REVIVE -/

/-- Settles O56: both are refused on a HELD branch, and else change the probe set or the record. -/
theorem probeAndRevive : Obligations.ProbeAndRevive := by
  intro m x n s hrun
  rw [exec_probe_of_run hrun, exec_revive_of_run hrun]
  refine ⟨fun hheld => ?_, fun hfree hn => ?_⟩
  · rw [probeNode, reviveNode, if_pos (.inl hheld), if_pos (.inl hheld)]
    exact ⟨rfl, rfl⟩
  · have hok : ¬ ((unitOf s x).ctrl = .held ∨ n = 0) := not_or.2 ⟨hfree, hn⟩
    rw [probeNode, reviveNode, if_neg hok, if_neg hok]
    exact ⟨⟨probeJoin n (unitOf s x).probeSet, fun k => mem_probeJoin, rfl⟩, rfl⟩

/-! ### Drains and resets -/

/-- Settles O57: DRAIN_COMPLETE is the drain completion. -/
theorem drainComplete : Obligations.DrainComplete :=
  fun _ _ hc hd => congrArg _ (completeDrain_of_drained hc hd)

/-- Settles O58: each reset's state, and the phase its end leads to. -/
theorem resets : Obligations.Resets := by
  intro m s
  exact ⟨rfl, fun hphase => congrArg _ (if_pos hphase), fun hphase => congrArg _ (if_pos hphase),
    fun hrun => exec_chipReset_of_run hrun m, fun hphase => congrArg _ (if_pos hphase)⟩

/-! ### Expiries -/

section Expiries
variable {x : Branch} {s : State}

theorem expireReplyWindow_of_await {tx : Txn} {n : Nat} (h : (unitOf s x).engine = .await tx n) (hn : n ≤ 1) :
    expireReplyWindow x s = silence x tx s := by
  simp only [expireReplyWindow, h, if_pos hn]

theorem expireParked_of_waiting {tx : Txn} {n : Nat} (h : (unitOf s x).park = some { tx := tx, delay := .waiting n }) (hn : n ≤ 1) :
    expireParked x s = onUnit x (fun u => { u with park := some { tx := tx, delay := .due } }) s := by
  simp only [expireParked, h, if_pos hn]

theorem expireBackoff_of_backoff {tx : Txn} {n : Nat} (h : (unitOf s x).engine = .backoff tx n) (hn : n ≤ 1) :
    expireBackoff x s = startSend x tx s := by
  simp only [expireBackoff, h, if_pos hn]

theorem expireReplyWindow_of_not (h : ¬ ReachesZero s (.replyWindow x)) : expireReplyWindow x s = s := by
  unfold expireReplyWindow
  split
  next tx n he => exact if_neg fun hn => h ⟨tx, n, he, hn⟩
  next => rfl

theorem expireParked_of_not (h : ¬ ReachesZero s (.parkedHold x)) : expireParked x s = s := by
  unfold expireParked
  split
  next tx n hp => exact if_neg fun hn => h ⟨tx, n, hp, hn⟩
  next => rfl

theorem expireBackoff_of_not (h : ¬ ReachesZero s (.backoffHold x)) : expireBackoff x s = s := by
  unfold expireBackoff
  split
  next tx n he => exact if_neg fun hn => h ⟨tx, n, he, hn⟩
  next => rfl

theorem expireClaim_of_not {k : Slot} (h : ¬ ReachesZero s (.claim k)) : expireClaim k s = s := by
  unfold expireClaim
  split
  next => rfl
  next e hat =>
    obtain ⟨he, hslot⟩ := mem_of_entryAt hat
    split
    next o d n hs => exact if_neg fun hn => h ⟨e, he, hslot, o, d, n, hs, hn⟩
    next => rfl

theorem expireReservation_of_not {m : Master} (h : ¬ ReachesZero s (.reservation m)) : expireReservation m s = s := by
  unfold expireReservation
  split
  next r hr => exact if_neg fun hn => h ⟨r, hr, hn⟩
  next => rfl

/-- A frame on the line is that of the transaction in TRANSMIT. -/
theorem lineFrame_of_transmit {tx : Txn} {rate : LineRate} (h : (unitOf s x).engine = .transmit tx rate) :
    lineFrame s x = some (commandFrame tx, rate) := by
  unfold unitOf at h
  rw [lineFrame, h]

end Expiries

/-- Settles O24: each expiry ends what its timer is of and hands the slot on. -/
theorem tableExpiries : Obligations.TableExpiries := by
  refine ⟨fun k s hok => ⟨fun e o d n he hslot hstate hn => ?_, fun hnot => congrArg _ (expireClaim_of_not hnot)⟩,
    fun m s => ⟨fun r hr hn => ?_, fun hnot => congrArg _ (expireReservation_of_not hnot)⟩⟩
  · subst hslot
    have hexpire : expireClaim e.slot s =
        offer (.claimExpired e.master e.slot e.hostAddr e.kind (outcomeName o)) (freeSlot e.slot s) := by
      simp only [expireClaim, hok.entryAt he, hstate, if_pos hn]
    exact ⟨freeSlot e.slot s, congrArg _ hexpire, freeSlot_handedOver e.slot s, freeSlot_frame e.slot s⟩
  · have hexpire : expireReservation m s = handOver r.slot { s with reservations := s.reservations.set m none } := by
      simp only [expireReservation, hr, if_pos hn, endReservation_of_some hr]
    exact ⟨handOver r.slot { s with reservations := s.reservations.set m none }, congrArg Host.Outcome.next hexpire,
      handOver_handedOver r.slot _, handOver_frame r.slot _⟩

/-- Settles O46: the parked transaction becomes due, and the one in BACKOFF goes again. -/
theorem holdDelayExpiries : Obligations.HoldDelayExpiries := by
  intro x tx n s hn
  refine ⟨fun hpark => congrArg _ (expireParked_of_waiting hpark hn), fun hbackoff => ⟨?_, ?_⟩⟩
  · exact congrArg _ (expireBackoff_of_backoff hbackoff hn)
  · exact lineFrame_of_transmit (by rw [unitOf_onUnit, if_pos rfl])

/-! ### The tick -/

theorem tickUnit_of_eq {u : BranchUnit} {e : Engine} {p : Option Parked} (he : e = tickEngine u.engine) (hp : p = tickPark u.park) :
    { u with engine := e, park := p } = tickUnit u := by
  rw [he, hp, tickUnit]

theorem expiryOrder_eq_nil {s : State} (hok : TableOk s) (order : List Timer) (h : ∀ t, ¬ ReachesZero s t) :
    expiryOrder order (lowerTimers s) = [] := by
  rw [List.eq_nil_iff_forall_not_mem]
  intro t ht
  exact h t ((timeLeft_lowerTimers_eq_zero_iff hok.slots_nodup t).1 (mem_expiryOrder.1 ht))

/-- Settles O59: the timers fall, and those at zero expire in the order of the operand. -/
theorem Settled.tick : Obligations.Tick := by
  refine ⟨fun order s hok => ?_, fun t u => by cases t <;> rfl⟩
  have hexec : exec (.microsecondTick order) s = .next (Machine.tick order s) := rfl
  intro lowered
  have hlowered : lowered = lowerTimers s := by
    have hbranches : lowered.branches = (lowerTimers s).branches := by
      refine PerBranch.ext_get fun x => ?_
      cases x
      · exact tickUnit_of_eq (by cases s.branches.a.engine <;> rfl) (by rcases s.branches.a.park with _ | ⟨tx, _ | _⟩ <;> rfl)
      · exact tickUnit_of_eq (by cases s.branches.b.engine <;> rfl) (by rcases s.branches.b.park with _ | ⟨tx, _ | _⟩ <;> rfl)
      · exact tickUnit_of_eq (by cases s.branches.c.engine <;> rfl) (by rcases s.branches.c.park with _ | ⟨tx, _ | _⟩ <;> rfl)
      · exact tickUnit_of_eq (by cases s.branches.d.engine <;> rfl) (by rcases s.branches.d.park with _ | ⟨tx, _ | _⟩ <;> rfl)
    exact congrArg (fun b => { lowerTimers s with branches := b }) hbranches
  refine ⟨fun hnone => ?_, fun hnodup => ⟨expiryOrder order (lowerTimers s), expiryOrder_nodup hnodup _, fun t => ?_,
    filter_prefix_expiryOrder _ _, ?_⟩⟩
  · rw [hexec, hlowered, Machine.tick, expiryOrder_eq_nil hok order hnone]
    rfl
  · rw [mem_expiryOrder, timeLeft_lowerTimers_eq_zero_iff hok.slots_nodup]
  · rw [hexec, hlowered, Machine.tick]

/-! ### Events that do not arise -/

/-- Settles O60: each command tests its event's condition. -/
theorem eventsThatDoNotArise : Obligations.EventsThatDoNotArise := by
  intro x s
  refine ⟨fun hnot => ?_, fun hnot => ?_, fun hnot => congrArg _ (expireReplyWindow_of_not hnot),
    fun hnot => congrArg _ (expireBackoff_of_not hnot), fun hnot => congrArg _ (expireParked_of_not hnot),
    fun hnot => congrArg _ (completeDrain_of_not hnot), fun hphase => congrArg _ (if_neg hphase),
    fun hphase => congrArg _ (if_neg hphase), fun hphase => congrArg _ (if_neg hphase)⟩
  · rw [exec_choiceEvent, choiceEvent, if_neg (mt (mayChoose_iff _).1 hnot)]
  · rw [exec_sendComplete, finishSend]
    split
    next tx rate he => exact absurd he (hnot tx rate)
    next => rfl

end Sys2Proof.Machine
end

section
/-! The choice event (chapter 5): the six cases of R88, what each candidate's issue does, and the drops of OFFLINE heads. -/

-- One theorem at a time: elaborated side by side, the proofs of this text need more memory than its check allows.
set_option Elab.async false

namespace Sys2Proof.Machine

/-! ### The six cases -/

section Choice
variable {x : Branch} {s : State}

theorem candidateK_eq_none {u : BranchUnit} : candidateK u = none ↔ ∀ tx, ¬ IsK u tx := by
  simp only [Option.eq_none_iff_forall_ne_some, ne_eq, candidateK_iff]

theorem candidateP_eq_none {u : BranchUnit} : candidateP u = none ↔ ∀ r, ¬ IsP u r := by
  simp only [Option.eq_none_iff_forall_ne_some, ne_eq, candidateP_iff]

theorem candidateD_eq_none : candidateD x s = none ↔ ∀ e, ¬ IsD x s e := by
  simp only [Option.eq_none_iff_forall_ne_some, ne_eq, candidateD_iff]

theorem candidateQ_eq_none {u : BranchUnit} (hp : u.probeSet.Pairwise (· < ·)) : candidateQ u = none ↔ ∀ n, ¬ IsQ u n := by
  simp only [Option.eq_none_iff_forall_ne_some, ne_eq, candidateQ_iff u _ hp]

/-- The six cases in terms of the candidates: the case of each choice. -/
def CaseOf (x : Branch) (s : State) : Choice → Prop
  | .parked tx => candidateK (unitOf s x) = some tx
  | .probe n => candidateQ (unitOf s x) = some n ∧ candidateK (unitOf s x) = none ∧
      (8 ≤ (unitOf s x).probeDeferral ∨ (candidateP (unitOf s x) = none ∧ candidateD x s = none))
  | .deferred e => candidateD x s = some e ∧ candidateK (unitOf s x) = none ∧
      (¬ 8 ≤ (unitOf s x).probeDeferral ∨ candidateQ (unitOf s x) = none) ∧
      (candidateP (unitOf s x) = none ∨ (unitOf s x).settings.postedAllowance ≤ (unitOf s x).postedRun)
  | .posted r => candidateP (unitOf s x) = some r ∧ candidateK (unitOf s x) = none ∧
      (¬ 8 ≤ (unitOf s x).probeDeferral ∨ candidateQ (unitOf s x) = none) ∧
      (candidateD x s = none ∨ ¬ (unitOf s x).settings.postedAllowance ≤ (unitOf s x).postedRun)
  | .nothing => candidateK (unitOf s x) = none ∧ candidateP (unitOf s x) = none ∧ candidateD x s = none ∧
      candidateQ (unitOf s x) = none

theorem caseOf_iff (hprobes : ProbeSetsOk s) (c : Choice) : CaseOf x s c ↔ Chosen x s c := by
  have hp := (hprobes x).1
  cases c <;> simp only [CaseOf, Chosen, NotCase2, candidateK_iff, candidateP_iff, candidateD_iff, candidateQ_iff _ _ hp,
    candidateK_eq_none, candidateP_eq_none, candidateD_eq_none, candidateQ_eq_none hp, not_le]

/-- The cases of section 5.3 exclude each other, and `choose` takes the one that applies. -/
theorem choose_eq_iff (c : Choice) : choose x s = c ↔ CaseOf x s c := by
  cases hk : candidateK (unitOf s x) with
  | some k => cases c <;> simp [choose, CaseOf, hk]
  | none =>
    by_cases hdefer : 8 ≤ (unitOf s x).probeDeferral <;>
      by_cases hrun : (unitOf s x).settings.postedAllowance ≤ (unitOf s x).postedRun <;>
      cases hp : candidateP (unitOf s x) <;> cases hd : candidateD x s <;> cases hq : candidateQ (unitOf s x) <;> cases c <;>
      simp [choose, CaseOf, hk, hp, hd, hq, hdefer, hrun, Config.probeDeferralLimit]

theorem choose_eq_of_chosen (hprobes : ProbeSetsOk s) {c : Choice} (h : Chosen x s c) : choose x s = c :=
  (choose_eq_iff c).2 ((caseOf_iff hprobes c).2 h)

theorem choiceEvent_of_mayChoose (hmay : MayChoose (unitOf s x)) :
    choiceEvent x s = completeDrain x (issue x (choose x (dropOfflineHeads x s)) (dropOfflineHeads x s)) := by
  rw [choiceEvent, if_pos ((mayChoose_iff _).2 hmay)]

/-- With no head to drop and a transaction handed to the engine, the choice event is the issue. -/
theorem exec_choiceEvent_of_chosen {c : Choice} (hmay : MayChoose (unitOf s x)) (hhead : NoOfflineHead (unitOf s x))
    (hprobes : ProbeSetsOk s) (hc : Chosen x s c) {t : State} (hissue : issue x c s = t) (hbusy : (unitOf t x).engine ≠ .idle) :
    exec (.choiceEvent x) s = .next t := by
  rw [exec_choiceEvent, choiceEvent_of_mayChoose hmay, dropOfflineHeads_of_head hhead, choose_eq_of_chosen hprobes hc, hissue,
    completeDrain_of_not fun h => hbusy h.2.2.2.2.2]

end Choice

theorem probeSetsOk_dropOfflineHeads {x : Branch} {s : State} (h : ProbeSetsOk s) : ProbeSetsOk (dropOfflineHeads x s) :=
  keep_parts keptByEvents_probeSetsOk.part (parts_dropOfflineHeads (Finset.mem_insert_self x ∅)) h

/-- Settles O37: the choice is the one the six cases give on the state after the drops. -/
theorem choiceFollowsTheSixCases : Obligations.ChoiceFollowsTheSixCases := by
  intro x s hmay hprobes
  have hafter := probeSetsOk_dropOfflineHeads (x := x) hprobes
  refine ⟨choose x (dropOfflineHeads x s), (caseOf_iff hafter _).1 ((choose_eq_iff _).1 rfl),
    fun c' hc' => (choose_eq_of_chosen hafter hc').symm, ?_⟩
  rw [exec_choiceEvent, choiceEvent_of_mayChoose hmay]

/-! ### The issue of each candidate -/

section Issue
variable {x : Branch} {s : State}

theorem issue_parked (tx : Txn) :
    issue x (.parked tx) s = onUnit x (fun u => { u with park := none, engine := .transmit tx (lineRate s x) }) s := by
  simp only [issue, startSend, onUnit_onUnit, lineRate_onUnit]

theorem issue_probe (n : Node) : issue x (.probe n) s =
    onUnit x (fun u => { u with probeDeferral := 0, engine := .transmit (probeRecord .probeSet n) (lineRate s x) }) s := by
  simp only [issue, startSend, onUnit_onUnit, lineRate_onUnit]
  rfl

theorem writeParity_of_known {u : BranchUnit} {n : Node} {p : Bool}
    (h : (n = 0 ∧ p = false) ∨ (n ≠ 0 ∧ (nodeOf u n).parity = .known p)) : writeParity u n = some p := by
  rcases h with ⟨hn, rfl⟩ | ⟨hn, hp⟩
  · rw [writeParity, if_pos hn]
  · rw [writeParity, if_neg hn, hp]

theorem writeParity_of_unsure {u : BranchUnit} {n : Node} (hn : n ≠ 0) (h : (nodeOf u n).parity = .unsure) : writeParity u n = none := by
  rw [writeParity, if_neg hn, h]

theorem countIssue_eq (run : Nat) (u : BranchUnit) : countIssue run u =
    { u with postedRun := run, probeDeferral := if u.probeSet = [] then u.probeDeferral else min 8 (u.probeDeferral + 1) } := by
  simp [countIssue, Config.probeDeferralLimit]

theorem issue_posted {r : PostedRecord} {p : Bool} (h : writeParity (unitOf s x) r.node = some p) : issue x (.posted r) s =
    onUnit x (fun u =>
      { u with
        headInFlight := true
        postedRun := min 15 (u.postedRun + 1)
        probeDeferral := if u.probeSet = [] then u.probeDeferral else min 8 (u.probeDeferral + 1)
        engine := .transmit ⟨.posted, r.node, .write, r.regAddr, r.width, r.data, p, 0, 0⟩ (lineRate s x) }) s := by
  simp only [issue, h, startSend, onUnit_onUnit, countIssue_eq, lineRate_onUnit]
  rfl

theorem issue_deferred {e : Entry} {p : Bool} (h : entryParity (unitOf s x) e = some p) : issue x (.deferred e) s =
    onEntries (fun f => if f.slot = e.slot then { f with state := .issued false } else f)
      (onUnit x (fun u =>
        { u with
          postedRun := 0
          probeDeferral := if u.probeSet = [] then u.probeDeferral else min 8 (u.probeDeferral + 1)
          engine :=
            .transmit ⟨.slot e.slot, e.node, if e.kind = .read then .read else .write, e.regAddr, e.fetchWidth, e.writeData, p, 0, 0⟩
              (lineRate s x) }) s) := by
  have hrate : lineRate (onEntries (fun f => if f.slot = e.slot then { f with state := .issued false } else f)
      (onUnit x (countIssue 0) s)) x = lineRate s x :=
    lineRate_congr (by rw [unitOf_onEntries, unitOf_onUnit, if_pos rfl]; rfl) rfl
  simp only [issue, h, startSend, ← onEntries_onUnit, onUnit_onUnit, hrate, countIssue_eq]
  rfl

theorem issue_unsure {c : Choice} {n : Node} (hn : n ≠ 0) (hunsure : (nodeOf (unitOf s x) n).parity = .unsure)
    (hc : (∃ r, c = .posted r ∧ r.node = n) ∨ ∃ e, c = .deferred e ∧ e.kind = .write ∧ e.node = n) :
    issue x c s = onUnit x (fun u => { u with probeDeferral := 0, engine := .transmit (probeRecord .resync n) (lineRate s x) }) s := by
  have hnone := writeParity_of_unsure hn hunsure
  rcases hc with ⟨r, rfl, rfl⟩ | ⟨e, rfl, hwrite, rfl⟩
  · simp only [issue, hnone, issueResync_eq]
    rfl
  · simp only [issue, entryParity, hwrite, hnone, issueResync_eq]
    rfl

end Issue

/-- The engine of a column set to a transmission. -/
theorem busy_of_transmit {x : Branch} {s : State} {f : BranchUnit → BranchUnit} {tx : Txn} {rate : LineRate}
    (h : (f (unitOf s x)).engine = .transmit tx rate) : (unitOf (onUnit x f s) x).engine ≠ .idle := by
  rw [unitOf_onUnit, if_pos rfl, h]
  exact fun he => nomatch he

/-- Settles O38: candidate by candidate. -/
theorem issueOfEachCandidate : Obligations.IssueOfEachCandidate := by
  intro x s hmay hhead hprobes
  refine ⟨fun tx hc => ?_, fun n hc => ?_, fun r p hc hparity => ?_, fun e p hc hparity => ?_, fun hc hdrains => ?_⟩
  · exact exec_choiceEvent_of_chosen hmay hhead hprobes hc (issue_parked tx) (busy_of_transmit rfl)
  · exact exec_choiceEvent_of_chosen hmay hhead hprobes hc (issue_probe n) (busy_of_transmit rfl)
  · exact exec_choiceEvent_of_chosen hmay hhead hprobes hc (issue_posted (writeParity_of_known hparity)) (busy_of_transmit rfl)
  · have hentry : entryParity (unitOf s x) e = some p := by
      rcases hparity with ⟨hread, rfl⟩ | ⟨hwrite, hknown⟩
      · rw [entryParity, hread]
      · rw [entryParity, hwrite]
        exact writeParity_of_known (.inr hknown)
    exact exec_choiceEvent_of_chosen hmay hhead hprobes hc (issue_deferred hentry)
      (by rw [unitOf_onEntries]; exact busy_of_transmit rfl)
  · rw [exec_choiceEvent, choiceEvent_of_mayChoose hmay, dropOfflineHeads_of_head hhead, choose_eq_of_chosen hprobes hc]
    exact congrArg _ (completeDrain_of_not fun h => hdrains x h.1 h.2)

/-- Settles O39: with the parity UNSURE a resync probe takes the write's place. -/
theorem resyncProbeInPlaceOfAWrite : Obligations.ResyncProbeInPlaceOfAWrite := by
  intro x n s hmay hhead hprobes hn hunsure hc
  rcases hc with ⟨r, hc, hr⟩ | ⟨e, hc, hwrite, he⟩
  · exact exec_choiceEvent_of_chosen hmay hhead hprobes hc (issue_unsure hn hunsure (.inl ⟨r, rfl, hr⟩)) (busy_of_transmit rfl)
  · exact exec_choiceEvent_of_chosen hmay hhead hprobes hc (issue_unsure hn hunsure (.inr ⟨e, rfl, hwrite, he⟩)) (busy_of_transmit rfl)

/-! ### The drops of OFFLINE heads -/

/-- What the departure of the records `run` leaves: the queue `rest`, the node records `nodes`, and the posted-ahead counts of the
branch's PENDING entries lower by the length of the run. -/
def droppedState (x : Branch) (run rest : List PostedRecord) (nodes : Vector NodeRecord 31) (s : State) : State :=
  { s with
    branches := s.branches.set x { unitOf s x with queue := rest, nodes := nodes }
    entries := s.entries.map (fun e =>
      if e.branch = x ∧ e.state = .pending then { e with postedAhead := e.postedAhead - run.length } else e) }

/-- Each node's dropped-write count is higher by its records in the run (R76). -/
def CountsDrops (run : List PostedRecord) (u : BranchUnit) (nodes : Vector NodeRecord 31) : Prop :=
  ∀ n : Node, n ≠ 0 → nodes[(nodePlace n).val] =
    { nodeOf u n with dropped := min 255 ((nodeOf u n).dropped + run.countP (fun r => r.node = n)) }

section Drops
variable {x : Branch} {s : State}

theorem droppedState_nil {rest : List PostedRecord} (hqueue : (unitOf s x).queue = rest) :
    droppedState x [] rest (unitOf s x).nodes s = s := by
  have hentry : ∀ e ∈ s.entries,
      (if e.branch = x ∧ e.state = .pending then { e with postedAhead := e.postedAhead - ([] : List PostedRecord).length } else e) = e :=
    fun e _ => ite_self _
  have hunit : ({ unitOf s x with queue := rest, nodes := (unitOf s x).nodes } : BranchUnit) = unitOf s x := by rw [← hqueue]
  rw [droppedState, List.map_congr_left hentry, List.map_id', hunit]
  exact congrArg (fun b => { s with branches := b }) (PerBranch.set_get s.branches x)

/-- The column after one drop (R76, R83). -/
theorem unitOf_dropHead (n : Node) : unitOf (dropHead x n s) x =
    onNode n countDropped { unitOf s x with queue := (unitOf s x).queue.tail, headInFlight := false } := by
  rw [dropHead, unitOf_onUnit, if_pos rfl, unitOf_departHead, if_pos rfl]

theorem onNode_frame (n : Node) (f : NodeRecord → NodeRecord) (u : BranchUnit) : onNode n f u = { u with nodes := (onNode n f u).nodes } := by
  unfold onNode
  split <;> rfl

theorem droppedState_cons {r : PostedRecord} {run rest : List PostedRecord} {nodes : Vector NodeRecord 31}
    (hidle : (unitOf s x).headInFlight = false) :
    droppedState x run rest nodes (dropHead x r.node s) = droppedState x (r :: run) rest nodes s := by
  have hunit : ({ unitOf (dropHead x r.node s) x with queue := rest, nodes := nodes } : BranchUnit) =
      { unitOf s x with queue := rest, nodes := nodes } := by
    rw [unitOf_dropHead, onNode_frame]
    simp only [← hidle]
  have hbranches : (dropHead x r.node s).branches = s.branches.set x (unitOf (dropHead x r.node s) x) := by
    refine PerBranch.ext_get fun y => ?_
    rw [PerBranch.get_set]
    split
    next hy => rw [hy]; rfl
    next hy =>
      show unitOf (dropHead x r.node s) y = unitOf s y
      rw [dropHead, unitOf_onUnit, if_neg hy, unitOf_departHead, if_neg hy]
  have hentries : (dropHead x r.node s).entries =
      s.entries.map (fun e => if e.branch = x ∧ e.state = .pending then { e with postedAhead := e.postedAhead - 1 } else e) := by
    rw [dropHead, onUnit_entries, departHead_eq]
  have hentry : ∀ e : Entry,
      (fun e : Entry => if e.branch = x ∧ e.state = .pending then { e with postedAhead := e.postedAhead - run.length } else e)
        (if e.branch = x ∧ e.state = .pending then { e with postedAhead := e.postedAhead - 1 } else e) =
      if e.branch = x ∧ e.state = .pending then { e with postedAhead := e.postedAhead - (r :: run).length } else e := by
    intro e
    by_cases he : e.branch = x ∧ e.state = .pending
    · simp only [if_pos he, List.length_cons, Nat.sub_sub, Nat.add_comm]
    · simp only [if_neg he]
  rw [droppedState, hunit, hbranches, hentries, PerBranch.set_set, List.map_map]
  simp only [Function.comp_def, hentry]
  rfl

/-- The fold over a run of heads for nodes 1–31, each counted in its node's record. -/
theorem foldl_dropHead (run rest : List PostedRecord) (hqueue : (unitOf s x).queue = run ++ rest)
    (hidle : (unitOf s x).headInFlight = false) (hcounts : ∀ n, (nodeOf (unitOf s x) n).dropped ≤ 255) (hnodes : ∀ r ∈ run, r.node ≠ 0) :
    ∃ nodes, CountsDrops run (unitOf s x) nodes ∧ run.foldl (fun t r => dropHead x r.node t) s = droppedState x run rest nodes s := by
  induction run generalizing s with
  | nil =>
    refine ⟨(unitOf s x).nodes, fun n _ => ?_, (droppedState_nil hqueue).symm⟩
    have hle := hcounts n
    rw [List.countP_nil, Nat.add_zero, Nat.min_eq_right hle]
    rfl
  | cons r run ih =>
    obtain ⟨hr, hrun⟩ := List.forall_mem_cons.1 hnodes
    have hnode : ∀ n : Node, n ≠ 0 → nodeOf (unitOf (dropHead x r.node s) x) n =
        if n = r.node then countDropped (nodeOf (unitOf s x) n) else nodeOf (unitOf s x) n := by
      intro n hn
      rw [unitOf_dropHead]
      split
      next hnr => subst hnr; rw [nodeOf_onNode_same _ hn]; rfl
      next hnr => rw [nodeOf_onNode_other _ hn hnr]; rfl
    have hcounts' : ∀ n, (nodeOf (unitOf (dropHead x r.node s) x) n).dropped ≤ 255 := by
      intro n
      rw [unitOf_dropHead]
      rcases nodeOf_onNode_cases { unitOf s x with queue := (unitOf s x).queue.tail, headInFlight := false } r.node n countDropped with
        h | ⟨-, h⟩ <;> rw [h]
      · exact hcounts n
      · exact Nat.min_le_left _ _
    obtain ⟨nodes, hdrops, hfold⟩ := ih (s := dropHead x r.node s) (by rw [unitOf_dropHead, onNode_queue, hqueue]; rfl)
      (by rw [unitOf_dropHead, onNode_headInFlight]) hcounts' hrun
    refine ⟨nodes, fun n hn => ?_, ?_⟩
    · rw [hdrops n hn, hnode n hn, List.countP_cons]
      by_cases hnr : n = r.node
      · have hadd : min 255 (min Config.droppedMax ((nodeOf (unitOf s x) n).dropped + 1) + run.countP (fun r => r.node = n)) =
            min 255 ((nodeOf (unitOf s x) n).dropped + (run.countP (fun r => r.node = n) + 1)) := by
          simp only [Config.droppedMax]
          omega
        rw [if_pos hnr, if_pos (by simp [hnr])]
        simp only [countDropped, hadd]
      · rw [if_neg hnr, if_neg (by simpa using fun h => hnr h.symm), Nat.add_zero]
    · rw [List.foldl_cons, hfold, droppedState_cons hidle]

/-- The run that a choice event drops is all of the OFFLINE records at the head. -/
theorem offlineRun_eq {u : BranchUnit} {run rest : List PostedRecord} (hqueue : u.queue = run ++ rest) (hidle : u.headInFlight = false)
    (hrun : ∀ r ∈ run, nodeIsOffline u r.node = true) (hrest : ∀ r, rest.head? = some r → nodeIsOffline u r.node = false) :
    offlineRun u = run := by
  have htail : rest.takeWhile (fun r => nodeIsOffline u r.node) = [] := by
    cases rest with
    | nil => rfl
    | cons r rest => rw [List.takeWhile_cons_of_neg (by simp [hrest r rfl])]
  rw [offlineRun, hidle, hqueue, List.takeWhile_append_of_pos hrun, htail, List.append_nil]
  rfl

theorem nodeIsOffline_of_countsDrops {run rest : List PostedRecord} {u : BranchUnit} {nodes : Vector NodeRecord 31}
    (h : CountsDrops run u nodes) (n : Node) : nodeIsOffline { u with queue := rest, nodes := nodes } n = nodeIsOffline u n := by
  by_cases hn : n = 0
  · simp [nodeIsOffline, hn]
  · have hstate : (nodeOf { u with queue := rest, nodes := nodes } n).state = (nodeOf u n).state := by
      show (nodes[(nodePlace n).val]).state = _
      rw [h n hn]
    simp only [nodeIsOffline, hstate]

end Drops

/-- Settles O40: the drops lead to the state in which the run has gone, where there is nothing left to drop. -/
theorem offlineHeadsAreDroppedFirst : Obligations.OfflineHeadsAreDroppedFirst := by
  intro x run rest s hmay hcounts hqueue hidle hrun hrest
  have hnodes : ∀ r ∈ run, r.node ≠ 0 := by
    intro r hr h0
    have hoff := hrun r hr
    simp [nodeIsOffline, h0] at hoff
  obtain ⟨nodes, hdrops, hfold⟩ := foldl_dropHead run rest hqueue hidle (fun n => ((hcounts x).2.2 n).2) hnodes
  have hdropped : dropOfflineHeads x s = droppedState x run rest nodes s := by
    rw [dropOfflineHeads, offlineRun_eq hqueue hidle hrun hrest, hfold]
  have hunit : unitOf (droppedState x run rest nodes s) x = { unitOf s x with queue := rest, nodes := nodes } := by
    simp [unitOf, droppedState]
  have hhead : NoOfflineHead (unitOf (droppedState x run rest nodes s) x) := by
    refine .inr fun r hr => ?_
    rw [hunit] at hr ⊢
    rw [nodeIsOffline_of_countsDrops hdrops]
    exact hrest r hr
  refine ⟨nodes, hdrops, ?_⟩
  rw [exec_choiceEvent, exec_choiceEvent, choiceEvent_of_mayChoose hmay, hdropped]
  show _ = Host.Outcome.next (choiceEvent x (droppedState x run rest nodes s))
  rw [choiceEvent_of_mayChoose (by rw [hunit]; exact hmay), dropOfflineHeads_of_head hhead]

end Sys2Proof.Machine
end

section
/-! The events that release slots in bulk: ABANDON (section 1.6) and the HELD entry (section 8.3). -/

-- One theorem at a time: elaborated side by side, the proofs of this text need more memory than its check allows.
set_option Elab.async false

namespace Sys2Proof.Machine

/-! ### ABANDON -/

theorem freedByAbandon_eq (m : Master) (e : Entry) : freedByAbandon m e = (e.master = m && !isIssued e) :=
  Bool.eq_iff_iff.2 (by rw [freedByAbandon_iff, Bool.and_eq_true, decide_eq_true_eq, Bool.not_eq_true'])

theorem markAbandoned_of_not_freed {m : Master} {e : Entry} (h : freedByAbandon m e = false) :
    markAbandoned m e = if e.master = m then { e with state := .issued true } else e := by
  rw [freedByAbandon_eq] at h
  by_cases hm : e.master = m
  · have hi : isIssued e = true := by simpa [hm] using h
    simp [markAbandoned, hm, hi]
  · simp [markAbandoned, hm]

/-- The end of a reservation, whether there is one or not: its slot is handed on, and nothing else changes (R22). -/
theorem endReservation_spec (m : Master) (s : State) :
    HandedOver ((s.reservations.get m).map Reservation.slot).toList { s with reservations := s.reservations.set m none }
      (endReservation m s) ∧
    endReservation m s = { s with
      waiting := (endReservation m s).waiting, reservations := (endReservation m s).reservations } := by
  cases hr : s.reservations.get m with
  | none =>
    have hset : s.reservations.set m none = s.reservations := by rw [← hr, PerMaster.set_get]
    rw [endReservation_of_none hr, hset]
    exact ⟨⟨rfl, fun i m k _ hk => by simp at hk, fun m _ => rfl⟩, rfl⟩
  | some r =>
    rw [endReservation_of_some hr]
    exact ⟨handOver_handedOver r.slot _, handOver_frame r.slot _⟩

/-- The table as the first three steps of ABANDON leave it: off the waiting list, the reservation ended, the slots freed. -/
def leftByMaster (m : Master) (s : State) : State :=
  freeSlotsWhere (freedByAbandon m) (endReservation m { s with waiting := s.waiting.filter (fun k => k ≠ m) })

theorem abandonMaster_eq (m : Master) (s : State) : abandonMaster m s =
    completeDrain .d (completeDrain .c (completeDrain .b (completeDrain .a
      (offer (.masterAbandoned m
          (slotsWhere (freedByAbandon m) (endReservation m { s with waiting := s.waiting.filter (fun k => k ≠ m) })).length
          ((leftByMaster m s).entries.countP (fun e => e.master = m && isIssued e)))
        (onEntries (markAbandoned m) (leftByMaster m s)))))) := by
  simp only [abandonMaster, leftByMaster, allBranches, List.foldl_cons, List.foldl_nil]

/-- The slots the first three steps hand on, in their order, and the entries they leave. -/
theorem TableOk.leftByMaster {s : State} (hok : TableOk s) (m : Master) :
    HandedOver
      (((s.reservations.get m).map Reservation.slot).toList ++
        allSlots.filter (fun j => s.entries.any (fun e => e.slot = j && e.master = m && !isIssued e)))
      { s with waiting := s.waiting.filter (· ≠ m), reservations := s.reservations.set m none } (leftByMaster m s) ∧
    leftByMaster m s = { s with
      entries := s.entries.filter (fun e => !freedByAbandon m e)
      waiting := (leftByMaster m s).waiting, reservations := (leftByMaster m s).reservations } := by
  unfold Machine.leftByMaster
  have hend := endReservation_spec m { s with waiting := s.waiting.filter (fun k => k ≠ m) }
  generalize Machine.endReservation m { s with waiting := s.waiting.filter (fun k => k ≠ m) } = t at hend ⊢
  obtain ⟨hhanded, ht⟩ := hend
  have hentries : t.entries = s.entries := by rw [ht]
  have hunwaited : (s.waiting.filter (fun k => k ≠ m)).Nodup := hok.waiting_nodup.filter _
  have hwaiting : t.waiting.Nodup := by rw [hhanded.1]; exact hunwaited.sublist (List.drop_sublist _ _)
  obtain ⟨hfreed, hframe⟩ := freeSlotsWhere_spec (freedByAbandon m) (by rw [hentries]; exact hok.slots_nodup) hwaiting
  have hslots : slotsWhere (freedByAbandon m) t =
      allSlots.filter (fun j => s.entries.any (fun e => e.slot = j && e.master = m && !isIssued e)) := by
    simp only [slotsWhere, hentries, freedByAbandon_eq, Bool.and_assoc]
  rw [hslots] at hfreed
  refine ⟨hhanded.trans hunwaited (by rw [ht]) hfreed, ?_⟩
  rw [hframe, hentries, ht]

/-- Settles O23: the five steps, one after another. -/
theorem abandonReleasesAMaster : Obligations.AbandonReleasesAMaster := by
  intro m k s hrun hok
  obtain ⟨hhanded, hleft⟩ := hok.leftByMaster k
  have hend := (endReservation_spec k { s with waiting := s.waiting.filter (fun j => j ≠ k) }).2
  have hfreed : (slotsWhere (freedByAbandon k) (endReservation k { s with waiting := s.waiting.filter (fun j => j ≠ k) })).length =
      s.entries.countP (fun e => e.master = k && !isIssued e) := by
    rw [length_slotsWhere _ (by rw [hend]; exact hok.slots_nodup), hend]
    exact List.countP_congr fun e _ => by rw [freedByAbandon_eq]
  have hmarked : (leftByMaster k s).entries.countP (fun e => e.master = k && isIssued e) =
      s.entries.countP (fun e => e.master = k && isIssued e) := by
    rw [hleft, List.countP_filter]
    refine List.countP_congr fun e _ => ?_
    rw [freedByAbandon_eq]
    cases isIssued e <;> simp
  refine ⟨onEntries (markAbandoned k) (leftByMaster k s), ?_, hhanded, ?_⟩
  · rw [← hfreed, ← hmarked, ← abandonMaster_eq]
    exact congrArg Host.Outcome.next (registerCommand_of_run hrun m _)
  · have hentries : (leftByMaster k s).entries.map (markAbandoned k) =
        (s.entries.filter (fun e => e.master ≠ k || isIssued e)).map
          (fun e => if e.master = k then { e with state := .issued true } else e) := by
      rw [hleft]
      have hkeep : ∀ e, (!freedByAbandon k e) = (decide (e.master ≠ k) || isIssued e) := fun e => by
        rw [freedByAbandon_eq, Bool.not_and, Bool.not_not, decide_not]
      simp only [← hkeep]
      exact List.map_congr_left fun e he => markAbandoned_of_not_freed (by simpa using (List.mem_filter.1 he).2)
    rw [onEntries, hentries, hleft]

/-! ### The HELD entry -/

theorem heldUnit_eq (u : BranchUnit) : heldUnit u =
    { ctrl := .held, queue := [], headInFlight := false, postedRun := 0, probeDeferral := 0, settings := u.settings, engine := .off,
      park := none, receiver := if u.receiver = .ignoring then .ignoring else .clear, nodes := Vector.replicate 31 nodeReset,
      probeSet := [] } := by
  rw [heldUnit, dropReception_eq]

theorem freedByHeld_heldEntry (x : Branch) (n : Nat) (c : Option Nat) (e : Entry) :
    freedByHeld x (heldEntry x n c e) = freedByHeld x e := by
  unfold heldEntry
  split
  next h =>
    obtain ⟨hb, hstate⟩ := Bool.and_eq_true_iff.1 h
    have hnot : isAbandoned e = false := by
      unfold isPending isIssued isAbandoned at hstate
      unfold isAbandoned
      cases hs : e.state <;> simp_all
    have hready : isAbandoned (makeReady c .branchReset none (lowerAhead x n e)) = false := rfl
    rw [freedByHeld, freedByHeld, hready, hnot, Bool.and_false, Bool.and_false]
  · rfl

/-- What the HELD entry makes of an entry it does not free (R10, R78). -/
theorem heldEntry_of_not_freed {x : Branch} {e : Entry} (h : freedByHeld x e = false) (n : Nat) (c : Option Nat) :
    heldEntry x n c e =
      if e.branch = x ∧ isReady e = false then
        { e with state := .ready .branchReset none c, postedAhead := if isPending e then e.postedAhead - n else e.postedAhead }
      else e := by
  unfold heldEntry makeReady lowerAhead isPending isIssued isReady
  unfold freedByHeld isAbandoned at *
  by_cases hb : e.branch = x <;> cases hs : e.state <;> simp_all

theorem TableOk.holdColumn {s : State} (hok : TableOk s) (x : Branch) :
    HandedOver (allSlots.filter (fun k => s.entries.any (fun e => e.slot = k && e.branch = x && isAbandoned e))) s (holdColumn x s) ∧
    holdColumn x s = { s with
      branches := s.branches.set x (heldUnit (unitOf s x))
      entries := (s.entries.filter (fun e => !freedByHeld x e)).map (heldEntry x (unitOf s x).queue.length (claimStart s))
      waiting := (holdColumn x s).waiting, reservations := (holdColumn x s).reservations } := by
  have hheld : TableOk (Machine.onEntries (heldEntry x (unitOf s x).queue.length (claimStart s)) (Machine.onUnit x heldUnit s)) :=
    (hok.onUnit x heldUnit).onEntries (heldEntry_slot x _ _)
  obtain ⟨hhanded, hframe⟩ := freeSlotsWhere_spec (freedByHeld x) hheld.slots_nodup hheld.waiting_nodup
  have hslots : slotsWhere (freedByHeld x)
      (Machine.onEntries (heldEntry x (unitOf s x).queue.length (claimStart s)) (Machine.onUnit x heldUnit s)) =
      allSlots.filter (fun k => s.entries.any (fun e => e.slot = k && e.branch = x && isAbandoned e)) := by
    simp only [slotsWhere, onEntries_entries, onUnit_entries, List.any_map, Function.comp_def, heldEntry_slot, freedByHeld_heldEntry]
    simp only [freedByHeld, Bool.and_assoc]
  rw [hslots] at hhanded
  refine ⟨hhanded, ?_⟩
  unfold Machine.holdColumn
  rw [hframe, onEntries_entries, onUnit_entries, List.filter_map]
  simp only [Function.comp_def, freedByHeld_heldEntry]
  rfl

/-- Settles O55: the flush, and the hold of the column. -/
theorem holdEntersHeld : Obligations.HoldEntersHeld := by
  intro m x s hrun hok hfree fill flushed
  have hcore : flushed.branches = s.branches ∧ flushed.entries = s.entries ∧ flushed.waiting = s.waiting ∧
      flushed.reservations = s.reservations ∧ flushed.resWindow = s.resWindow ∧ flushed.claimWindow = s.claimWindow := by
    simp only [flushed]
    split <;> simp
  obtain ⟨hbranches, hentries, hwaiting, hreservations, hresWindow, hclaimWindow⟩ := hcore
  have hunit : unitOf flushed x = unitOf s x := by rw [unitOf, hbranches, unitOf]
  have htable : TableOk flushed :=
    hok.congr (by rw [liveSlots, hentries, liveSlots]) hwaiting (by funext k; rw [ownedBy, hreservations, ownedBy]) hresWindow
  obtain ⟨hhanded, hframe⟩ := htable.holdColumn x
  refine ⟨holdColumn x flushed, ?_, ?_, ?_⟩
  · rw [exec_hold_of_run hrun, holdBranch_of_not_held hfree, enterHeld_eq]
    rfl
  · unfold HandedOver at hhanded ⊢
    rwa [hentries, hwaiting, hreservations, hresWindow] at hhanded
  · rw [hframe, hunit, hbranches, hentries, heldUnit_eq]
    have hclaim : claimStart flushed = if s.claimWindow = 0 then none else some (s.claimWindow * 16) := by
      rw [claimStart, hclaimWindow, Config.claimUnit]
    have hkeep : ∀ e, (!freedByHeld x e) = (decide (e.branch ≠ x) || !isAbandoned e) := fun e => by
      rw [freedByHeld, Bool.not_and, decide_not]
    have hmap : (s.entries.filter (fun e => !freedByHeld x e)).map (heldEntry x (unitOf s x).queue.length (claimStart flushed)) =
        (s.entries.filter (fun e => decide (e.branch ≠ x) || !isAbandoned e)).map (fun e =>
          if e.branch = x ∧ isReady e = false then
            { e with
              state := .ready .branchReset none (if s.claimWindow = 0 then none else some (s.claimWindow * 16))
              postedAhead := if isPending e then e.postedAhead - fill else e.postedAhead }
          else e) := by
      simp only [← hkeep, ← hclaim]
      exact List.map_congr_left fun e he => heldEntry_of_not_freed (by simpa using (List.mem_filter.1 he).2) _ _
    rw [hmap]

end Sys2Proof.Machine
end

section
/-! The end of a transaction at its source and in the Node Table (sections 1.2, 4.3, 4.4, 7.2 to 7.5). -/

-- One theorem at a time: elaborated side by side, the proofs of this text need more memory than its check allows.
set_option Elab.async false

namespace Sys2Proof.Machine

/-! ### At the source -/

section Source
variable {x : Branch} {tx : Txn}

theorem endSource_of_slot {k : Slot} (hsource : tx.source = .slot k) (en : TxEnd) (s : State) : endSource x tx en s = endDeferred k en s := by
  simp only [endSource, hsource]

theorem endSource_of_probeSet (hsource : tx.source = .probeSet) (en : TxEnd) (s : State) :
    endSource x tx en s = onUnit x (fun u => { u with probeSet := probeLeave tx.node u.probeSet }) s := by
  simp only [endSource, hsource]

theorem endSource_of_resync (hsource : tx.source = .resync) (en : TxEnd) (s : State) : endSource x tx en s = s := by
  simp only [endSource, hsource]

theorem endDeferred_of_issued {s : State} (hok : TableOk s) {e : Entry} (he : e ∈ s.entries) (hstate : e.state = .issued false)
    (en : TxEnd) : endDeferred e.slot en s =
      onEntries (fun f => if f.slot = e.slot then makeReady (claimStart s) (outcomeOf en) (readDataOf en) f else f) s := by
  simp only [endDeferred, hok.entryAt he, hstate]

theorem endDeferred_of_abandoned {s : State} (hok : TableOk s) {e : Entry} (he : e ∈ s.entries) (hstate : e.state = .issued true)
    (en : TxEnd) : endDeferred e.slot en s = freeSlot e.slot s := by
  simp only [endDeferred, hok.entryAt he, hstate]

/-- Settles O47: an ISSUED entry takes the outcome; one marked abandoned goes. -/
theorem endOfADeferredTransaction : Obligations.EndOfADeferredTransaction := by
  intro x tx en e s hok hsource he
  rw [endSource_of_slot hsource]
  refine ⟨fun hissued o d houtcome => ?_, fun habandoned => ?_⟩
  · have hpair : (o, d) = (outcomeOf en, readDataOf en) := by
      rw [houtcome]
      cases en <;> rfl
    obtain ⟨rfl, rfl⟩ := Prod.mk.inj hpair
    rw [endDeferred_of_issued hok he hissued]
    rfl
  · rw [endDeferred_of_abandoned hok he habandoned]
    exact ⟨freeSlot_handedOver e.slot s, freeSlot_frame e.slot s⟩

theorem endPosted_of_drop {s : State} {en : TxEnd} {why : DropReason} {r : PostedRecord} {rest : List PostedRecord}
    (hqueue : (unitOf s x).queue = r :: rest) (hwhy : dropReasonOf en = some why) :
    endPosted x en s = offer (.postedDropped x r.node r.master r.hostAddr why) (departHead x s) := by
  simp only [endPosted, hqueue, hwhy, droppedRecord]

/-- Settles O48: the departure of the head, with the record of a failure. -/
theorem endOfAPostedTransaction : Obligations.EndOfAPostedTransaction := by
  intro x tx r rest s hsource hqueue departed
  have hdeparted : departHead x s = departed := by rw [departHead_eq, hqueue, List.tail_cons]
  simp only [endSource_of_posted hsource, ← hdeparted]
  exact ⟨endPosted_of_no_drop rfl x s, endPosted_of_no_drop rfl x s, fun _ => endPosted_of_drop hqueue rfl,
    endPosted_of_drop hqueue rfl, endPosted_of_drop hqueue rfl⟩

end Source

/-! ### In the Node Table -/

section NodeTable
variable {x : Branch} {tx : Txn} {s : State}

theorem onUnit_congr {f g : BranchUnit → BranchUnit} (h : f (unitOf s x) = g (unitOf s x)) : onUnit x f s = onUnit x g s := by
  rw [onUnit, onUnit]
  unfold unitOf at h
  rw [h]

theorem onNode_congr {u : BranchUnit} {n : Node} {f g : NodeRecord → NodeRecord} (h : f (nodeOf u n) = g (nodeOf u n)) :
    onNode n f u = onNode n g u := by
  rw [onNode, onNode, h]

theorem endNode_of_reply (hn : tx.node ≠ 0) {en : TxEnd} (hen : en ≠ .noReply) : endNode x tx en s =
    nodeReplied x tx.node (fun r => { r with parity := parityAfter tx en r.parity, nodeType := typeAfter en r.nodeType }) s := by
  unfold endNode
  rw [if_neg hn]
  split
  · exact absurd rfl hen
  · rfl

theorem endNode_of_silence (hn : tx.node ≠ 0) : endNode x tx .noReply s = nodeSilent x tx s := if_neg hn

theorem parityAfter_done (p : Parity) : parityAfter tx .done p = if tx.op = .write then .known (!tx.parity) else p := by
  unfold parityAfter opposite
  cases tx.op <;> rfl

/-- Settles O49: what a valid reply says of its node, and what the ends of probes and broadcasts leave. -/
theorem endWithAValidReply : Obligations.EndWithAValidReply := by
  intro x tx s
  refine ⟨fun en hn hen => ?_, fun en hsource => endSource_of_probeSet hsource en s, fun en hsource => endSource_of_resync hsource en s,
    fun en hn => endNode_of_broadcast hn x en s⟩
  rw [endNode_of_reply hn hen, nodeReplied]
  cases en with
  | noReply => exact absurd rfl hen
  | done =>
    simp only [parityAfter_done]
    rfl
  | data | broadcastSent | denied | busyLimit | present => rfl

theorem nodeSilent_of_no_turn (h : turnsOffline (unitOf s x) tx.node = false) :
    nodeSilent x tx s = onUnit x (onNode tx.node (recordSilent tx.op (unitOf s x).settings.offlineThreshold)) s := by
  rw [nodeSilent, if_neg (by rw [h]; exact Bool.false_ne_true)]

theorem nodeSilent_of_turn (h : turnsOffline (unitOf s x) tx.node = true) :
    nodeSilent x tx s =
      onEntries (releasedByTurn x tx.node (claimStart s))
        (offer (.nodeOffline x tx.node)
          (onUnit x (onNode tx.node (recordSilent tx.op (unitOf s x).settings.offlineThreshold)) s)) := by
  rw [nodeSilent, if_pos h]

theorem turnsOffline_iff {u : BranchUnit} {n : Node} (hn : n ≠ 0) : turnsOffline u n = true ↔
    (nodeOf u n).state ≠ .offline ∧ u.settings.offlineThreshold ≤ min 15 ((nodeOf u n).failures + 1) := by
  simp [turnsOffline, nodeIsOffline, hn, Config.failuresMax]

/-- Settles O50: the failure counted, and the turn to OFFLINE at the threshold. -/
theorem endWithNoReply : Obligations.EndWithNoReply := by
  intro x tx s hn failed threshold counted
  have hcounted : ∀ st, (if (nodeOf (unitOf s x) tx.node).state = .offline ∨ threshold ≤ failed then NodeState.offline else .suspect) = st →
      onUnit x (onNode tx.node (recordSilent tx.op (unitOf s x).settings.offlineThreshold)) s = counted st := by
    rintro st rfl
    exact onUnit_congr (onNode_congr rfl)
  rw [endNode_of_silence hn]
  refine ⟨fun hoffline => ?_, fun hother hbelow => ?_, fun hother hreached => ?_⟩
  · have hturn : turnsOffline (unitOf s x) tx.node = false :=
      Bool.eq_false_iff.2 fun h => ((turnsOffline_iff hn).1 h).1 hoffline
    rw [nodeSilent_of_no_turn hturn, hcounted _ (if_pos (.inl hoffline))]
  · have hturn : turnsOffline (unitOf s x) tx.node = false :=
      Bool.eq_false_iff.2 fun h => absurd ((turnsOffline_iff hn).1 h).2 (Nat.not_le.2 hbelow)
    rw [nodeSilent_of_no_turn hturn, hcounted _ (if_neg (not_or.2 ⟨hother, Nat.not_le.2 hbelow⟩))]
  · rw [nodeSilent_of_turn ((turnsOffline_iff hn).2 ⟨hother, hreached⟩), hcounted _ (if_pos (.inr hreached))]
    refine congrArg (fun f => onEntries f _) (funext fun e => ?_)
    simp only [releasedByTurn, Bool.and_eq_true, decide_eq_true_eq, isPending_iff, and_assoc]
    rfl

end NodeTable

end Sys2Proof.Machine
end

section
/-! The frames of the link (sections 6.2, 6.3, 6.7 and 10.7): a command frame reads back, a reply is judged exactly, and a node of
section 6.7 answers validly and executes once. -/

-- One theorem at a time: elaborated side by side, the proofs of this text need more memory than its check allows.
set_option Elab.async false

namespace Sys2Proof.Machine

/-! ### The check at the end of a frame -/

theorem length_checkBytes (body : List Byte) : (checkBytes body).length = 2 := rfl

theorem take_frame (body : List Byte) :
    (body ++ checkBytes body).take ((body ++ checkBytes body).length - 2) = body := by
  rw [List.length_append, length_checkBytes, Nat.add_sub_cancel, List.take_left']
  rfl

theorem drop_frame (body : List Byte) :
    (body ++ checkBytes body).drop ((body ++ checkBytes body).length - 2) = checkBytes body := by
  rw [List.length_append, length_checkBytes, Nat.add_sub_cancel, List.drop_left']
  rfl

/-! ### Command frames -/

theorem getLsbD_eq_decide {n : Nat} (b : BitVec n) (i : Nat) : b.getLsbD i = decide (b.toNat / 2 ^ i % 2 = 1) := by
  rw [BitVec.getLsbD, Nat.testBit_eq_decide_div_mod_eq]

theorem opCode_lt (op : Op) : opCode op < 4 := by cases op <;> decide

theorem opOf_opCode (op : Op) : opOf (opCode op) = some op := by cases op <;> rfl

/-- The first byte of a command frame gives back node, operation and parity. -/
theorem commandHeader (n : Node) (op : Op) (p : Bool) :
    (BitVec.ofNat 8 (n.val * 8 + opCode op * 2 + p.toNat)).toNat / 8 = n.val ∧
    (BitVec.ofNat 8 (n.val * 8 + opCode op * 2 + p.toNat)).toNat / 2 % 4 = opCode op ∧
    (BitVec.ofNat 8 (n.val * 8 + opCode op * 2 + p.toNat)).getLsbD 0 = p := by
  have hop := opCode_lt op
  have hn := n.isLt
  rw [getLsbD_eq_decide, BitVec.toNat_ofNat]
  cases p
  · refine ⟨by simp; omega, by simp; omega, decide_eq_false ?_⟩
    simp; omega
  · refine ⟨by simp; omega, by simp; omega, decide_eq_true ?_⟩
    simp; omega

/-- The two address bytes give back the address. -/
theorem joined_halves (r : RegAddr) : ((r >>> 8).setWidth 8).setWidth 16 <<< 8 ||| (r.setWidth 8).setWidth 16 = r := by
  ext i hi
  by_cases h : i < 8
  · simp [h, BitVec.getLsbD_eq_getElem hi]
  · simp [h, show i - 8 < 8 by omega, show 8 + (i - 8) = i by omega, BitVec.getLsbD_eq_getElem hi]

/-- Settles O51: the check holds, and each field reads back. -/
theorem commandFrameReadsBack : Obligations.CommandFrameReadsBack := by
  intro tx
  obtain ⟨hnode, hop, hparity⟩ := commandHeader tx.node tx.op tx.parity
  refine ⟨?_, ?_⟩
  · unfold parseCommand commandFrame
    rw [take_frame, drop_frame, if_neg (not_not.2 rfl)]
    simp only [commandBody, List.cons_append, List.nil_append, hop, opOf_opCode, Option.map_some, hparity, hnode, joined_halves]
  · simp only [commandFrame, commandBody, List.length_append, List.length_cons, List.length_nil, length_checkBytes]
    omega

/-! ### Reply frames -/

/-- The first byte of a reply holds the node's address and the parity echoed, and zero bits (R101). -/
theorem replyHeader_iff (b : Byte) (n : Node) (p : Bool) :
    (b.toNat / 8 = n.val ∧ b.getLsbD 2 = p ∧ b.toNat % 4 = 0) ↔ b = BitVec.ofNat 8 (n.val * 8 + p.toNat * 4) := by
  have hn := n.isLt
  have hb := b.isLt
  rw [getLsbD_eq_decide, ← BitVec.toNat_inj, BitVec.toNat_ofNat]
  cases p <;> simp <;> omega

/-- The second byte of a reply holds its status and reason, and a zero bit (R101). -/
theorem status_iff (b : Byte) {code : Nat} (hcode : code < 8) (reason : BitVec 4) :
    (statusCode b = code ∧ reasonOf b = reason ∧ b.getLsbD 4 = false) ↔ b = BitVec.ofNat 8 (code * 32 + reason.toNat) := by
  have hr := reason.isLt
  have hb := b.isLt
  rw [statusCode, reasonOf, getLsbD_eq_decide, ← BitVec.toNat_inj, ← BitVec.toNat_inj, BitVec.toNat_ofNat, BitVec.toNat_setWidth]
  simp
  omega

/-- The status code of a reply (section 10.8). -/
def codeOfReply : Reply → Nat
  | .data _ => 1
  | .done => 2
  | .hold => 3
  | .deny _ => 4
  | .present _ _ => 5

/-- The reason a reply carries: none but DENY's is non-zero (section 10.8). -/
def reasonOfReply : Reply → BitVec 4
  | .deny reason => reason
  | _ => 0

theorem statusByte_eq (r : Reply) : statusByte r = BitVec.ofNat 8 (codeOfReply r * 32 + (reasonOfReply r).toNat) := by
  cases r with
  | deny reason => revert reason; decide
  | data | done | hold | present => rfl

theorem eq_statusByte_iff (b : Byte) (r : Reply) :
    b = statusByte r ↔ statusCode b = codeOfReply r ∧ reasonOf b = reasonOfReply r ∧ b.getLsbD 4 = false := by
  rw [statusByte_eq, ← status_iff b (by cases r <;> simp [codeOfReply])]

theorem expectedLength_of_fits {tx : Txn} {r : Reply} {b : Byte} (hfits : Fits tx r) (hb : b = statusByte r) :
    4 + (replyPayload r).length = expectedLength b tx := by
  have hcode := ((eq_statusByte_iff b r).1 hb).1
  cases r with
  | data bytes =>
    simp only [expectedLength, hcode, codeOfReply, replyPayload, hfits.2]
  | done | hold | deny | present => simp [expectedLength, hcode, codeOfReply, replyPayload]

/-- The last executed parity, as the byte that PRESENT carries it in. -/
theorem ofNat_toNat_lowBit {b : Byte} (h : b.toNat < 2) : BitVec.ofNat 8 (b.getLsbD 0).toNat = b := by
  rw [getLsbD_eq_decide, ← BitVec.toNat_inj, BitVec.toNat_ofNat]
  interval_cases b.toNat <;> rfl

/-- The reply that status, reason and payload of a frame of the expected length give (R105). -/
theorem replyOfStatus_iff {tx : Txn} {b : Byte} {payload : List Byte} (hzero : b.getLsbD 4 = false)
    (hlength : 4 + payload.length = expectedLength b tx) (r : Reply) :
    replyOfStatus tx b payload = some r ↔ b = statusByte r ∧ payload = replyPayload r ∧ Fits tx r := by
  rw [eq_statusByte_iff]
  constructor
  · intro h
    have hempty : statusCode b ≠ 1 → statusCode b ≠ 5 → payload = [] := fun h1 h5 =>
      List.eq_nil_of_length_eq_zero (by simpa [expectedLength, h1, h5] using hlength)
    unfold replyOfStatus at h
    split at h
    case h_1 hcode hop =>
      obtain ⟨hreason, hr⟩ := Option.ite_none_right_eq_some.1 h
      cases hr
      exact ⟨⟨hcode, hreason, hzero⟩, rfl, hop, by simpa [expectedLength, hcode] using hlength⟩
    case h_2 hcode hop =>
      obtain ⟨hreason, hr⟩ := Option.ite_none_right_eq_some.1 h
      cases hr
      exact ⟨⟨hcode, hreason, hzero⟩, hempty (by simp [hcode]) (by simp [hcode]), hop⟩
    case h_3 hcode hop | h_4 hcode hop =>
      obtain ⟨hreason, hr⟩ := Option.ite_none_right_eq_some.1 h
      cases hr
      exact ⟨⟨hcode, hreason, hzero⟩, hempty (by simp [hcode]) (by simp [hcode]), by simp [Fits, hop]⟩
    case h_5 hcode hop | h_6 hcode hop =>
      obtain ⟨hreason, hr⟩ := Option.ite_none_left_eq_some.1 h
      cases hr
      exact ⟨⟨hcode, rfl, hzero⟩, hempty (by simp [hcode]) (by simp [hcode]), by simp [hop], hreason⟩
    case h_7 hcode hop =>
      split at h
      next nodeType last =>
        obtain ⟨⟨hreason, hlast⟩, hr⟩ := Option.ite_none_right_eq_some.1 h
        cases hr
        exact ⟨⟨hcode, hreason, hzero⟩, by rw [replyPayload, ofNat_toNat_lowBit hlast], hop⟩
      · cases h
    case h_8 => cases h
  · rintro ⟨⟨hcode, hreason, -⟩, rfl, hfits⟩
    cases r with
    | data bytes => simp only [replyOfStatus, hcode, codeOfReply, hfits.1, hreason, reasonOfReply, if_true, replyPayload]
    | done => simp only [replyOfStatus, hcode, codeOfReply, (show tx.op = .write from hfits), hreason, reasonOfReply, if_true]
    | hold =>
      rcases hfits with hop | hop <;> simp only [replyOfStatus, hcode, codeOfReply, hop, hreason, reasonOfReply, if_true]
    | deny reason =>
      obtain ⟨hop | hop, hne⟩ := hfits <;>
        simp only [replyOfStatus, hcode, codeOfReply, hop, hreason, reasonOfReply, if_neg hne]
    | present nodeType last =>
      simp only [replyOfStatus, hcode, codeOfReply, (show tx.op = .probe from hfits), hreason, reasonOfReply, replyPayload]
      cases last <;> rfl

/-- A frame is judged to be `r` when its end mark is in its place, its length is the expected one, its check holds, its first two
bytes are right and the rest gives `r`. -/
theorem judgeReply_iff {tx : Txn} {bytes : List Byte} {endMark : Bool} {r : Reply} : judgeReply tx bytes endMark = some r ↔
    endMark = true ∧ ∃ b0 b1 payload, bytes = (b0 :: b1 :: payload) ++ checkBytes (b0 :: b1 :: payload) ∧
      4 + payload.length = expectedLength b1 tx ∧ (b0.toNat / 8 = tx.node.val ∧ b0.getLsbD 2 = tx.parity ∧ b0.toNat % 4 = 0) ∧
      b1.getLsbD 4 = false ∧ replyOfStatus tx b1 payload = some r := by
  constructor
  · intro h
    unfold judgeReply at h
    split at h
    next b0 b1 rest =>
      obtain ⟨hframe, h⟩ := Option.ite_none_left_eq_some.1 h
      obtain ⟨hcheck, h⟩ := Option.ite_none_left_eq_some.1 h
      obtain ⟨hheader, h⟩ := Option.ite_none_left_eq_some.1 h
      simp only [not_or, not_not, Bool.not_eq_false, Bool.not_eq_true] at hframe hcheck hheader
      obtain ⟨hend, hlength⟩ := hframe
      obtain ⟨hnode, hparity, hlow, hzero⟩ := hheader
      have hlong : 4 ≤ (b0 :: b1 :: rest).length := by
        rw [hlength]
        unfold expectedLength
        split <;> omega
      have hbody : (b0 :: b1 :: rest).take ((b0 :: b1 :: rest).length - 2) = b0 :: b1 :: rest.take (rest.length - 2) := by
        simp only [List.length_cons] at hlong ⊢
        obtain ⟨n, hn⟩ := Nat.exists_eq_add_of_le' (show 2 ≤ rest.length by omega)
        simp [hn]
      refine ⟨hend, b0, b1, rest.take (rest.length - 2), ?_, ?_, ⟨hnode, hparity, hlow⟩, hzero, h⟩
      · rw [← hbody, ← hcheck, List.take_append_drop]
      · rw [← hlength, List.length_take]
        simp only [List.length_cons] at hlong ⊢
        omega
    · cases h
  · rintro ⟨rfl, b0, b1, payload, rfl, hlength, ⟨hnode, hparity, hlow⟩, hzero, hr⟩
    have hlong : ((b0 :: b1 :: payload) ++ checkBytes (b0 :: b1 :: payload)).length = expectedLength b1 tx := by
      rw [← hlength, List.length_append, length_checkBytes]
      simp only [List.length_cons]
      omega
    have hrest : (payload ++ checkBytes (b0 :: b1 :: payload)).take ((payload ++ checkBytes (b0 :: b1 :: payload)).length - 2) =
        payload := by
      rw [List.length_append, length_checkBytes, Nat.add_sub_cancel, List.take_left']
      rfl
    have hcheck : ((b0 :: b1 :: payload) ++ checkBytes (b0 :: b1 :: payload)).drop
          (((b0 :: b1 :: payload) ++ checkBytes (b0 :: b1 :: payload)).length - 2) =
        checkBytes (((b0 :: b1 :: payload) ++ checkBytes (b0 :: b1 :: payload)).take
          (((b0 :: b1 :: payload) ++ checkBytes (b0 :: b1 :: payload)).length - 2)) := by
      rw [take_frame, drop_frame]
    generalize checkBytes (b0 :: b1 :: payload) = check at hlong hrest hcheck ⊢
    simp only [List.cons_append] at hlong hcheck ⊢
    rw [hlong] at hcheck
    simp only [judgeReply, hlong, hcheck, hnode, hparity, hlow, hzero, hrest, ne_eq, not_true_eq_false, or_self, Bool.false_eq_true,
      Bool.true_eq_false, if_false, hr]

/-- Settles O52: the header and the status byte are those of the layout. -/
theorem replyIsValidExactly : Obligations.ReplyIsValidExactly := by
  intro tx bytes endMark r
  rw [judgeReply_iff]
  refine and_congr_right fun _ => ⟨?_, ?_⟩
  · rintro ⟨b0, b1, payload, rfl, hlength, hheader, hzero, hr⟩
    obtain rfl := (replyHeader_iff b0 _ _).1 hheader
    obtain ⟨rfl, rfl, hfits⟩ := (replyOfStatus_iff hzero hlength r).1 hr
    exact ⟨rfl, hfits⟩
  · rintro ⟨rfl, hfits⟩
    have hzero := ((eq_statusByte_iff (statusByte r) r).1 rfl).2.2
    have hlength := expectedLength_of_fits hfits rfl
    exact ⟨_, _, _, rfl, hlength, (replyHeader_iff _ _ _).2 rfl, hzero, (replyOfStatus_iff hzero hlength r).2 ⟨rfl, rfl, hfits⟩⟩

/-! ### A node of section 6.7 -/

/-- What a node reads from the frame of a transaction (R100). -/
def commandOf (tx : Txn) : Command :=
  { node := tx.node, op := tx.op, parity := tx.parity, regAddr := tx.regAddr, width := BitVec.ofNat 8 tx.width.bytes, data := tx.data }

theorem nodeReceive_commandFrame {n : NodeModel} {tx : Txn} (hn : n.addr ≠ 0) (haddr : tx.node = n.addr) (will : NodeWill) :
    nodeReceive n will (commandFrame tx) =
      ((answerCommand n will (commandOf tx)).1, some (replyBytes tx.node tx.parity (answerCommand n will (commandOf tx)).2)) := by
  have hparse : parseCommand (commandFrame tx) = some (commandOf tx) := (commandFrameReadsBack tx).1
  have hzero : ¬ (commandOf tx).node = 0 := by rw [commandOf, haddr]; exact hn
  have hmine : ¬ (commandOf tx).node ≠ n.addr := not_not.2 haddr
  simp only [nodeReceive, hparse, if_neg hzero, if_neg hmine, haddr]
  rfl

theorem fits_willReply {tx : Txn} {will : NodeWill} {r : Reply} (hop : tx.op = .read ∨ tx.op = .write) (hdeny : will ≠ .deny 0)
    (hr : ∀ contents, will = .obey contents → Fits tx r) : Fits tx (willReply will r) := by
  cases will with
  | obey contents => exact hr contents rfl
  | hold => exact hop
  | deny reason => exact ⟨hop, fun h => hdeny (h ▸ rfl)⟩

/-- A node's answer to a transaction's frame fits it (R115, R116). -/
theorem fits_answerCommand {n : NodeModel} {will : NodeWill} {tx : Txn}
    (hread : ∀ contents, will = .obey contents → tx.op = .read → contents.length = tx.width.bytes) (hdeny : will ≠ .deny 0) :
    Fits tx (answerCommand n will (commandOf tx)).2 := by
  unfold answerCommand
  split
  case h_1 hop => exact hop
  case h_2 hop =>
    split
    next contents => exact ⟨hop, hread contents rfl hop⟩
    next hnot => exact fits_willReply (.inl hop) hdeny fun contents h => absurd h (hnot contents)
  case h_3 hop =>
    split
    · exact hop
    · split
      · exact hop
      next hnot => exact fits_willReply (.inr hop) hdeny fun contents h => absurd h (hnot contents)

section Once
variable {n : NodeModel} {tx : Txn}

/-- A WRITE whose parity is the last executed one is answered and not executed again (R116). -/
theorem answerCommand_of_resend (hop : tx.op = .write) (h : tx.parity = n.lastExecuted) (will : NodeWill) :
    (answerCommand n will (commandOf tx)).1 = n := by
  simp only [answerCommand, commandOf, hop, if_pos h]

theorem answerCommand_of_obey (hop : tx.op = .write) (h : tx.parity ≠ n.lastExecuted) (contents : List Byte) :
    (answerCommand n (.obey contents) (commandOf tx)).1 =
      { n with executed := n.executed ++ [(tx.regAddr, tx.data)], lastExecuted := tx.parity } := by
  simp only [answerCommand, commandOf, hop, if_neg h, executeWrite]

theorem answerCommand_of_refusal (hop : tx.op = .write) {will : NodeWill} (hwill : ∀ contents, will ≠ .obey contents) :
    (answerCommand n will (commandOf tx)).1 = n := by
  cases will with
  | obey contents => exact absurd rfl (hwill contents)
  | hold | deny =>
    simp only [answerCommand, commandOf, hop]
    split <;> rfl

theorem foldl_nodeReceive_of_resend (hn : n.addr ≠ 0) (haddr : tx.node = n.addr) (hop : tx.op = .write) (h : tx.parity = n.lastExecuted)
    (wills : List NodeWill) : wills.foldl (fun k will => (nodeReceive k will (commandFrame tx)).1) n = n := by
  induction wills with
  | nil => rfl
  | cons will wills ih => rw [List.foldl_cons, nodeReceive_commandFrame hn haddr, answerCommand_of_resend hop h, ih]

end Once

/-- Settles O53: by induction on the frames received; after the first that is obeyed, the rest are resends. -/
theorem nodeAnswersValidlyAndExecutesOnce : Obligations.NodeAnswersValidlyAndExecutesOnce := by
  refine ⟨fun n will tx hn haddr hread hdeny => ?_, fun n wills tx hn haddr hop hparity => ?_⟩
  · rw [nodeReceive_commandFrame hn haddr]
    exact ⟨_, rfl, fits_answerCommand hread hdeny⟩
  · induction wills with
    | nil => rfl
    | cons will wills ih =>
      rw [List.foldl_cons, nodeReceive_commandFrame hn haddr, List.any_cons]
      cases will with
      | obey contents =>
        have hresends := foldl_nodeReceive_of_resend
          (n := { n with executed := n.executed ++ [(tx.regAddr, tx.data)], lastExecuted := tx.parity }) hn haddr hop rfl wills
        rw [answerCommand_of_obey hop hparity, hresends]
        rfl
      | hold | deny => rw [answerCommand_of_refusal hop (by simp), ih, Bool.false_or]

end Sys2Proof.Machine
end

section
/-! What arrives on a branch's line (chapter 6, section 10.7): start marks, frames that are no replies, replies, HOLD, and the expiry
of the reply window. -/

-- One theorem at a time: elaborated side by side, the proofs of this text need more memory than its check allows.
set_option Elab.async false

namespace Sys2Proof.Machine

variable {x : Branch} {s : State}

/-! ### Start marks and frames that are not received as replies -/

theorem inAwait_iff (u : BranchUnit) : inAwait u = true ↔ ∃ tx n, u.engine = .await tx n := by
  unfold inAwait
  cases u.engine <;> simp

theorem receiverAfterMark_of_ignoring {u : BranchUnit} (h : u.receiver = .ignoring) (rate : LineRate) :
    receiverAfterMark rate u = .ignoring := by
  simp only [receiverAfterMark, h]

theorem receiverAfterMark_of_not_ignoring {u : BranchUnit} (h : u.receiver ≠ .ignoring) (rate : LineRate) :
    receiverAfterMark rate u = if inAwait u then .receiving rate else .ignoring := by
  unfold receiverAfterMark
  split
  · contradiction
  · rfl

theorem exec_startMark_of_high (hphase : s.phase ≠ .pinLow) {r : Receiver} (hr : receiverAfterMark (lineRate s x) (unitOf s x) = r) :
    exec (.startMark x) s = .next (onUnit x (fun u => { u with receiver := r }) s) := by
  subst hr
  have hstart : receiveStart x s = onUnit x (fun u => { u with receiver := receiverAfterMark (lineRate s x) u }) s := if_neg hphase
  exact congrArg Host.Outcome.next (hstart.trans (onUnit_congr rfl))

/-- Settles O42: the receiver's next state by what it is and whether the engine awaits a reply. -/
theorem startMarkAndIgnoredFrames : Obligations.StartMarkAndIgnoredFrames := by
  intro x s
  refine ⟨fun hphase hfree hawait => exec_startMark_of_high hphase ?_, fun hphase hdeaf => exec_startMark_of_high hphase ?_,
    fun f hignoring => congrArg Host.Outcome.next ?_, fun f hclear => congrArg Host.Outcome.next ?_⟩
  · rw [receiverAfterMark_of_not_ignoring hfree, if_pos ((inAwait_iff _).2 hawait)]
  · by_cases hignoring : (unitOf s x).receiver = .ignoring
    · exact receiverAfterMark_of_ignoring hignoring _
    · have hnot : ¬ inAwait (unitOf s x) = true := fun h =>
        have ⟨tx, n, he⟩ := (inAwait_iff _).1 h
        hdeaf.elim hignoring fun hother => hother tx n he
      rw [receiverAfterMark_of_not_ignoring hignoring, if_neg hnot]
  · simp only [receiveFrame, hignoring]
  · simp only [receiveFrame, hclear]

/-! ### A frame received as a reply -/

theorem sameRate_iff (r q : LineRate) : sameRate r q = true ↔ r.kbps * q.divisor = q.kbps * r.divisor := decide_eq_true_iff

/-- The judgement of a frame that is received at a rate (R98, R105). -/
def judged (tx : Txn) (rate : LineRate) (f : RxFrame) : Option Reply :=
  if sameRate rate f.rate then judgeReply tx f.bytes f.endMark else none

theorem judged_eq_some {tx : Txn} {rate : LineRate} {f : RxFrame} {r : Reply} : judged tx rate f = some r ↔ IsReply tx rate f r := by
  unfold judged IsReply
  rw [Option.ite_none_right_eq_some, sameRate_iff, replyIsValidExactly]
  tauto

/-- The branch's receiver is clear: the reception that has ended (R169). -/
def received (x : Branch) (s : State) : State := onUnit x (fun u => { u with receiver := .clear }) s

theorem exec_replyFrame_of_receiving {tx : Txn} {left : Nat} {rate : LineRate} (h : Receiving s x tx left rate) (f : RxFrame) :
    exec (.replyFrame x f) s = .next (takeReply x tx (judged tx rate f) (received x s)) := by
  obtain ⟨hengine, hreceiver⟩ := h
  refine congrArg Host.Outcome.next ?_
  simp only [receiveFrame, hengine, hreceiver]
  rfl

theorem takeReply_of_end {tx : Txn} {r : Reply} {en : TxEnd} (h : endOf r = some en) (s : State) :
    takeReply x tx (some r) s = Ended x tx en s := by
  cases r with
  | hold => cases h
  | data | done | deny | present => cases h; rfl

/-- The end of a transaction sees no more of its branch's column than the engine IDLE and the reception dropped leave. -/
theorem ended_congr {t : State} {tx : Txn} {en : TxEnd} (h : idled x s = idled x t) : Ended x tx en s = Ended x tx en t := by
  rw [Ended, Ended, h]

theorem idled_onUnit {f g : BranchUnit → BranchUnit}
    (h : ({ dropReception (f (unitOf s x)) with engine := .idle } : BranchUnit) = { dropReception (g (unitOf s x)) with engine := .idle }) :
    idled x (onUnit x f s) = idled x (onUnit x g s) := by
  rw [idled, idled, onUnit_onUnit, onUnit_onUnit]
  exact onUnit_congr h

theorem idled_received {tx : Txn} {left : Nat} {rate : LineRate} (h : Receiving s x tx left rate) : idled x (received x s) = idled x s := by
  have hfree : (unitOf s x).receiver ≠ .ignoring := by rw [h.2]; exact Receiver.noConfusion
  rw [received, ← onUnit_id x s, onUnit_onUnit]
  refine idled_onUnit ?_
  rw [dropReception_eq, dropReception_eq, if_neg hfree]
  rfl

/-- Silence does not look at the branch's engine, nor at its receiver as long as no frame is ignored. -/
theorem silence_onUnit {tx : Txn} {f : BranchUnit → BranchUnit} {e : Engine} {r : Receiver}
    (hf : f (unitOf s x) = { unitOf s x with engine := e, receiver := r }) (hr : r ≠ .ignoring) (hfree : (unitOf s x).receiver ≠ .ignoring) :
    silence x tx (onUnit x f s) = silence x tx s := by
  have hsettings : (f (unitOf s x)).settings = (unitOf s x).settings := by rw [hf]
  have hlimit : (unitOf (onUnit x f s) x).settings.resendLimit = (unitOf s x).settings.resendLimit := by
    rw [unitOf_onUnit, if_pos rfl, hsettings]
  rcases lt_or_ge tx.resendsUsed (unitOf s x).settings.resendLimit with hroom | hnone
  · rw [silence_of_room hroom, silence_of_room (by rwa [hlimit]), onUnit_onUnit, lineRate_onUnit x f s hsettings]
    refine onUnit_congr ?_
    rw [hf, copyCounts_eq, copyCounts_eq, dropReception_eq, dropReception_eq, if_neg hr, if_neg hfree]
  · rw [silence_of_limit hnone, silence_of_limit (by rwa [hlimit])]
    refine ended_congr ?_
    conv_rhs => rw [← onUnit_id x s]
    refine idled_onUnit ?_
    rw [hf, dropReception_eq, dropReception_eq, if_neg hr, if_neg hfree]

/-- Settles O43: a reply that ends, and the silence of any other frame. -/
theorem replyFrameIsJudged : Obligations.ReplyFrameIsJudged := by
  intro x tx left rate f s h
  rw [exec_replyFrame_of_receiving h]
  refine ⟨fun r en hr hen => ?_, fun hnone => ?_⟩
  · rw [judged_eq_some.2 hr, takeReply_of_end hen, ended_congr (idled_received h)]
  · have hjudged : judged tx rate f = none := Option.eq_none_iff_forall_ne_some.2 fun r hr => hnone r (judged_eq_some.1 hr)
    have hfree : (unitOf s x).receiver ≠ .ignoring := by rw [h.2]; exact Receiver.noConfusion
    have hexpire : expireReplyWindow x (onUnit x (fun u => { u with engine := .await tx 0 }) s) =
        silence x tx (onUnit x (fun u => { u with engine := .await tx 0 }) s) :=
      expireReplyWindow_of_await (by rw [unitOf_onUnit, if_pos rfl]) (Nat.zero_le 1)
    rw [hjudged]
    refine congrArg Host.Outcome.next (Eq.trans ?_ hexpire.symm)
    have hreceived : silence x tx (received x s) = silence x tx s := silence_onUnit rfl Receiver.noConfusion hfree
    exact hreceived.trans (silence_onUnit rfl hfree hfree).symm

/-! ### HOLD -/

theorem holdReply_of_limit {tx : Txn} (h : (unitOf s x).settings.holdLimit ≤ tx.holdsUsed + 1) :
    holdReply x tx s = Ended x { tx with holdsUsed := tx.holdsUsed + 1 } .busyLimit
      (onUnit x (copyCounts { tx with holdsUsed := tx.holdsUsed + 1 }) s) := by
  simp only [holdReply, if_pos h, endTxn_eq]

theorem holdReply_of_room {tx : Txn} (h : tx.holdsUsed + 1 < (unitOf s x).settings.holdLimit) (hpark : (unitOf s x).park = none) :
    holdReply x tx s = nodeReplied x tx.node id (onUnit x (fun v =>
      { copyCounts { tx with holdsUsed := tx.holdsUsed + 1 } (dropReception v) with
        engine := .idle
        park := some { tx := { tx with holdsUsed := tx.holdsUsed + 1 },
                       delay := .waiting ((unitOf s x).settings.holdDelay * Config.linkUnit) } }) s) := by
  simp only [holdReply, if_neg (Nat.not_le.2 h), hpark]

theorem holdReply_of_full {tx : Txn} (h : tx.holdsUsed + 1 < (unitOf s x).settings.holdLimit) (hpark : (unitOf s x).park ≠ none) :
    holdReply x tx s = nodeReplied x tx.node id (onUnit x (fun v =>
      { copyCounts { tx with holdsUsed := tx.holdsUsed + 1 } (dropReception v) with
        engine := .backoff { tx with holdsUsed := tx.holdsUsed + 1 } ((unitOf s x).settings.holdDelay * Config.linkUnit) }) s) := by
  obtain ⟨p, hp⟩ := Option.ne_none_iff_exists'.1 hpark
  simp only [holdReply, if_neg (Nat.not_le.2 h), hp]

/-- A reply of a node whose record has not moved since `s` (R123, R126). -/
theorem nodeReplied_onUnit (n : Node) {f : BranchUnit → BranchUnit} (hf : (f (unitOf s x)).nodes = (unitOf s x).nodes) :
    nodeReplied x n id (onUnit x f s) =
      if nodeIsOffline (unitOf s x) n then
        offer (.nodeRecovered x n) (onUnit x (fun u => onNode n (fun r => { r with state := .online, failures := 0 }) (f u)) s)
      else onUnit x (fun u => onNode n (fun r => { r with state := .online, failures := 0 }) (f u)) s := by
  have hoffline : nodeIsOffline (unitOf (onUnit x f s) x) n = nodeIsOffline (unitOf s x) n := by
    rw [unitOf_onUnit, if_pos rfl, nodeIsOffline, nodeIsOffline, nodeOf, nodeOf, hf]
  rw [nodeReplied, hoffline, onUnit_onUnit]
  rfl

/-- Settles O44: at the limit the end, below it the park slot or BACKOFF, with the node alive. -/
theorem Settled.holdReply : Obligations.HoldReply := by
  intro x tx left rate f s h hr held counted alive told
  rw [exec_replyFrame_of_receiving h, judged_eq_some.2 hr]
  have htake : takeReply x tx (some .hold) (received x s) = Machine.holdReply x tx (received x s) := rfl
  have hsettings : (unitOf (received x s) x).settings = (unitOf s x).settings := by rw [received, unitOf_onUnit, if_pos rfl]
  have hpark : (unitOf (received x s) x).park = (unitOf s x).park := by rw [received, unitOf_onUnit, if_pos rfl]
  have hcopied : ∀ u : BranchUnit,
      copyCounts held (dropReception { u with receiver := .clear }) = { counted u with receiver := .clear } := fun u => by
    rw [copyCounts_eq, dropReception_eq, if_neg Receiver.noConfusion]
  rw [htake]
  refine ⟨fun hlimit => congrArg Host.Outcome.next ?_, fun hroom hfree => congrArg Host.Outcome.next ?_,
    fun hroom hfull => congrArg Host.Outcome.next ?_⟩
  · rw [holdReply_of_limit (by rwa [hsettings])]
    refine ended_congr ?_
    rw [received, onUnit_onUnit]
    refine idled_onUnit ?_
    rw [copyCounts_eq, dropReception_eq, dropReception_eq, if_neg Receiver.noConfusion, if_neg (by rw [h.2]; exact Receiver.noConfusion)]
  · rw [holdReply_of_room (by rwa [hsettings]) (by rwa [hpark]), hsettings, received, onUnit_onUnit, nodeReplied_onUnit _ (by simp [copyCounts_eq])]
    refine congrArg told (onUnit_congr ?_)
    rw [hcopied]
    unfold alive onNode
    split <;> rfl
  · rw [holdReply_of_full (by rwa [hsettings]) (by rwa [hpark]), hsettings, received, onUnit_onUnit, nodeReplied_onUnit _ (by simp [copyCounts_eq])]
    refine congrArg told (onUnit_congr ?_)
    rw [hcopied]
    unfold alive onNode
    split <;> rfl

/-! ### The expiry of the reply window -/

/-- Settles O45: the same frame again, or the end. -/
theorem Settled.replyWindowExpiry : Obligations.ReplyWindowExpiry := by
  intro x tx n s hengine hn
  have hexec : exec (.replyWindowExpiry x) s = .next (silence x tx s) := congrArg _ (expireReplyWindow_of_await hengine hn)
  rw [hexec]
  refine ⟨fun hroom => ?_, fun hlimit => by rw [silence_of_limit hlimit]⟩
  extract_lets again t
  constructor
  · rw [silence_of_room hroom]
    refine congrArg Host.Outcome.next (onUnit_congr ?_)
    rw [copyCounts_eq, dropReception_eq]
  · have hagain : (unitOf t x).engine = .transmit again (lineRate s x) := by rw [unitOf_onUnit, if_pos rfl]
    rw [lineFrame_of_transmit hagain]
    rfl

end Sys2Proof.Machine
end

section
/-! The words of the register window: the fields of a word read back, and a settings word written back changes nothing
(sections 10.5 and 10.8). -/

-- One theorem at a time: elaborated side by side, the proofs of this text need more memory than its check allows.
set_option Elab.async false

namespace Sys2Proof.Machine

/-! ### A field of a word of fields -/

theorem fieldOf_eq_div (w : Word) (lo len : Nat) : fieldOf w lo len = w.toNat / 2 ^ lo % 2 ^ len := by
  rw [fieldOf, Nat.shiftRight_eq_div_pow]

theorem fieldOf_or (w z : Word) (lo len : Nat) : fieldOf (w ||| z) lo len = fieldOf w lo len ||| fieldOf z lo len := by
  rw [fieldOf, fieldOf, fieldOf, BitVec.toNat_or, Nat.shiftRight_or_distrib, Nat.or_mod_two_pow]

/-- A field sees nothing of a field above it. -/
theorem fieldOf_putField_above {lo len lo' len' v : Nat} (hv : v < 2 ^ len') (hw : lo' + len' ≤ 32) (h : lo + len ≤ lo') :
    fieldOf (putField lo' len' v) lo len = 0 := by
  obtain ⟨k, rfl⟩ := Nat.exists_eq_add_of_le h
  rw [fieldOf_eq_div, toNat_putField hv hw, Nat.pow_add, Nat.pow_add, Nat.mul_assoc, Nat.mul_assoc,
    Nat.mul_div_cancel_left _ (Nat.two_pow_pos lo), Nat.mul_mod_right]

/-- A field on top of a word below it. -/
theorem fieldOf_or_putField {w : Word} {lo len v : Nat} (hl : w.toNat < 2 ^ lo) (hv : v < 2 ^ len) (hw : lo + len ≤ 32) :
    fieldOf (w ||| putField lo len v) lo len = v := by
  rw [fieldOf_eq_div, toNat_or_putField hl hv hw, Nat.add_mul_div_left _ _ (Nat.two_pow_pos lo), Nat.div_eq_of_lt hl, Nat.zero_add,
    Nat.mod_eq_of_lt hv]

theorem fieldOf_putField {lo len v : Nat} (hv : v < 2 ^ len) (hw : lo + len ≤ 32) : fieldOf (putField lo len v) lo len = v := by
  have h := fieldOf_or_putField (w := 0#32) (Nat.two_pow_pos lo) hv hw
  rwa [BitVec.zero_or] at h

/-- The fields of a layout, each a lowest bit, a length and a value: they ascend, and each value fits. -/
structure Layout (fs : List (Nat × Nat × Nat)) : Prop where
  rising : fs.Pairwise (fun f g => f.1 + f.2.1 ≤ g.1)
  fit    : ∀ f ∈ fs, f.1 + f.2.1 ≤ 32 ∧ f.2.2 < 2 ^ f.2.1

theorem fieldOf_foldl_above {fs : List (Nat × Nat × Nat)} {lo len : Nat} (habove : ∀ f ∈ fs, lo + len ≤ f.1)
    (fit : ∀ f ∈ fs, f.1 + f.2.1 ≤ 32 ∧ f.2.2 < 2 ^ f.2.1) (w : Word) :
    fieldOf ((fs.map fun f => putField f.1 f.2.1 f.2.2).foldl (· ||| ·) w) lo len = fieldOf w lo len := by
  induction fs generalizing w with
  | nil => rfl
  | cons f fs ih =>
    obtain ⟨hf, habove⟩ := List.forall_mem_cons.1 habove
    obtain ⟨⟨hw, hv⟩, fit⟩ := List.forall_mem_cons.1 fit
    rw [List.map_cons, List.foldl_cons, ih habove fit, fieldOf_or, fieldOf_putField_above hv hw hf, Nat.or_zero]

/-- Each field of a layout reads back. -/
theorem Layout.reads {fs : List (Nat × Nat × Nat)} (h : Layout fs) :
    ∀ f ∈ fs, fieldOf (joinFields (fs.map fun f => putField f.1 f.2.1 f.2.2)) f.1 f.2.1 = f.2.2 := by
  intro f hf
  suffices hread : ∀ w : Word, (∀ g ∈ fs, w.toNat < 2 ^ g.1) →
      fieldOf ((fs.map fun f => putField f.1 f.2.1 f.2.2).foldl (· ||| ·) w) f.1 f.2.1 = f.2.2 from
    hread 0 fun g _ => Nat.two_pow_pos g.1
  obtain ⟨rising, fit⟩ := h
  induction fs with
  | nil => cases hf
  | cons g fs ih =>
    intro w hw
    obtain ⟨habove, rising⟩ := List.pairwise_cons.1 rising
    obtain ⟨⟨hg, hv⟩, hfit⟩ := List.forall_mem_cons.1 fit
    obtain ⟨hlow, -⟩ := List.forall_mem_cons.1 hw
    rw [List.map_cons, List.foldl_cons]
    rcases List.mem_cons.1 hf with rfl | hrest
    · rw [fieldOf_foldl_above habove hfit, fieldOf_or_putField hlow hv hg]
    · refine ih hrest rising hfit _ fun j hj => ?_
      have htop : w.toNat + 2 ^ g.1 * g.2.2 < 2 ^ (g.1 + g.2.1) := by
        have hstep : 2 ^ g.1 * (g.2.2 + 1) ≤ 2 ^ g.1 * 2 ^ g.2.1 := Nat.mul_le_mul_left _ hv
        rw [Nat.pow_add]
        nlinarith
      rw [toNat_or_putField hlow hv hg]
      exact htop.trans_le (Nat.pow_le_pow_right (by decide) (habove j hj))

theorem Layout.toNat {fs : List (Nat × Nat × Nat)} (h : Layout fs) :
    (joinFields (fs.map fun f => putField f.1 f.2.1 f.2.2)).toNat = placed (fs.map fun f => (f.1, f.2.2)) :=
  toNat_joinFields fs h.rising h.fit

/-! ### Flags -/

@[simp] theorem bit_le_one (b : Bool) : bit b ≤ 1 := by cases b <;> decide

theorem putFlag_eq (n : Nat) (b : Bool) : putFlag n b = putField n 1 (bit b) := by cases b <;> rfl

theorem flagOf_eq (w : Word) (n : Nat) : flagOf w n = decide (fieldOf w n 1 = 1) := by
  rw [flagOf, getLsbD_eq_decide, fieldOf_eq_div, Nat.pow_one]

theorem decide_bit (b : Bool) : decide (bit b = 1) = b := by cases b <;> rfl

/-! ### Settings written back -/

theorem writeEnables_readEnables (s : State) : writeEnables (readEnables s) s = s := by
  have h : Layout [(0, 1, bit s.enables.recordPending), (1, 1, bit s.enables.overrun), (4, 1, bit s.enables.quiesced.a),
      (5, 1, bit s.enables.quiesced.b), (6, 1, bit s.enables.quiesced.c), (7, 1, bit s.enables.quiesced.d)] :=
    ⟨by simp, by simp⟩
  have hreads := h.reads
  simp only [List.forall_mem_cons, List.map_cons, List.map_nil] at hreads
  obtain ⟨h0, h1, h4, h5, h6, h7, -⟩ := hreads
  simp only [writeEnables, readEnables, putFlag_eq, flagOf_eq, h0, h1, h4, h5, h6, h7, decide_bit]

theorem writeDivisor_read {s : State} (hlow : 4 ≤ s.divisor) (hhigh : s.divisor ≤ 50) :
    writeDivisor (putField 0 6 s.divisor) s = s := by
  have hread : fieldOf (putField 0 6 s.divisor) 0 6 = s.divisor := fieldOf_putField (by omega) (by decide)
  rw [writeDivisor, hread, clampField, Nat.min_eq_right hhigh, Nat.max_eq_right hlow]

theorem writeClaimWindow_read {s : State} (h : s.claimWindow ≤ 4095) : writeClaimWindow (putField 0 12 s.claimWindow) s = s := by
  have hread : fieldOf (putField 0 12 s.claimWindow) 0 12 = s.claimWindow := fieldOf_putField (by omega) (by decide)
  simp only [writeClaimWindow, hread]
  exact if_neg fun hzero => hzero.2 hzero.1

theorem writeResWindow_read {s : State} (h : s.resWindow ≤ 255) (hok : TableOk s) :
    writeResWindow (putField 0 8 s.resWindow) s = s := by
  have hread : fieldOf (putField 0 8 s.resWindow) 0 8 = s.resWindow := fieldOf_putField (by omega) (by decide)
  have hwaiting : (if s.resWindow = 0 then [] else s.waiting) = s.waiting := by
    split
    next hzero => exact (not_not.1 fun hne => hok.waiting_window (Ne.symm hne) hzero)
    · rfl
  simp only [writeResWindow, hread, hwaiting]

theorem writeQuotas_read {s : State} (h : ∀ m, s.quotas.get m ≤ 12) : writeQuotas (readReg .quotas s) s = s := by
  have h0 : s.quotas.m0 ≤ 12 := h 0
  have h1 : s.quotas.m1 ≤ 12 := h 1
  have h2 : s.quotas.m2 ≤ 12 := h 2
  have h3 : s.quotas.m3 ≤ 12 := h 3
  have hlayout : Layout [(0, 4, s.quotas.m0), (8, 4, s.quotas.m1), (16, 4, s.quotas.m2), (24, 4, s.quotas.m3)] :=
    ⟨by simp, by simp; omega⟩
  have hreads := hlayout.reads
  simp only [List.forall_mem_cons, List.map_cons, List.map_nil] at hreads
  obtain ⟨r0, r1, r2, r3, -⟩ := hreads
  simp only [writeQuotas, readReg, r0, r1, r2, r3, quotaOf, Config.quotaMax, Nat.min_eq_right h0, Nat.min_eq_right h1,
    Nat.min_eq_right h2, Nat.min_eq_right h3]

theorem withWord0_readWord0 {a : Aperture} (h : a.sizeCode ≤ 8) : withWord0 (readWord0 a) a = a := by
  have hpage := a.basePage.isLt
  have hlayout : Layout [(0, 1, bit a.enable), (1, 1, bit (boolClass a.cls)), (2, 1, bit a.readOk), (3, 1, bit a.writeOk),
      (4, 1, bit (boolMode a.errorMode)), (5, 1, bit a.wordFetch), (8, 14, a.basePage.toNat), (24, 4, a.sizeCode)] :=
    ⟨by simp, by simp; omega⟩
  have hreads := hlayout.reads
  simp only [List.forall_mem_cons, List.map_cons, List.map_nil] at hreads
  obtain ⟨r0, r1, r2, r3, r4, r5, r8, r24, -⟩ := hreads
  have hcls : (if boolClass a.cls = true then RouteClass.deferred else .posted) = a.cls := by cases a.cls <;> rfl
  have hmode : (if boolMode a.errorMode = true then ErrorMode.absorb else .report) = a.errorMode := by cases a.errorMode <;> rfl
  simp only [withWord0, readWord0, putFlag_eq, flagOf_eq, r0, r1, r2, r3, r4, r5, r8, r24, decide_bit, hcls, hmode,
    BitVec.ofNat_toNat, BitVec.setWidth_eq, Nat.min_eq_right h]

theorem withWord1_readWord1 (a : Aperture) : withWord1 (readWord1 a) a = a := by
  have hbase := a.regBase.isLt
  have hnode := a.node.isLt
  have hbranch := branchCode_lt a.branch
  have hlayout : Layout [(0, 16, a.regBase.toNat), (16, 5, a.node.val), (24, 2, branchCode a.branch)] :=
    ⟨by simp, by simp; omega⟩
  have hreads := hlayout.reads
  simp only [List.forall_mem_cons, List.map_cons, List.map_nil] at hreads
  obtain ⟨r0, r16, r24, -⟩ := hreads
  simp only [withWord1, readWord1, r0, r16, r24, branchOfCode_branchCode, BitVec.ofNat_toNat, BitVec.setWidth_eq]

theorem withRates_readRates {t : BranchSettings} (h : settingsInRange t) : withRates (readRates t) t = t := by
  obtain ⟨hallow, hallow', hthreshold, hthreshold', -⟩ := h
  have hrate : bitRateCode t.bitRate < 8 ∧ bitRateOf (bitRateCode t.bitRate) = t.bitRate := by cases t.bitRate <;> decide
  have hlayout : Layout [(0, 3, bitRateCode t.bitRate), (8, 4, t.postedAllowance), (16, 4, t.offlineThreshold)] :=
    ⟨by simp, by simp; omega⟩
  have hreads := hlayout.reads
  simp only [List.forall_mem_cons, List.map_cons, List.map_nil] at hreads
  obtain ⟨r0, r8, r16, -⟩ := hreads
  simp only [withRates, readRates, r0, r8, r16, hrate.2, Nat.max_eq_right hallow, Nat.max_eq_right hthreshold]

theorem withLink_readLink {t : BranchSettings} (h : settingsInRange t) : withLink (readLink t) t = t := by
  obtain ⟨-, -, -, -, hwindow, hwindow', hdelay, hdelay', hresend, hhold, hhold'⟩ := h
  have hlayout : Layout [(0, 8, t.replyWindow), (8, 8, t.holdDelay), (16, 3, t.resendLimit), (20, 10, t.holdLimit)] :=
    ⟨by simp, by simp; omega⟩
  have hreads := hlayout.reads
  simp only [List.forall_mem_cons, List.map_cons, List.map_nil] at hreads
  obtain ⟨r0, r8, r16, r20, -⟩ := hreads
  simp only [withLink, readLink, r0, r8, r16, r20, Nat.max_eq_right hwindow, Nat.max_eq_right hdelay, Nat.max_eq_right hhold]

theorem onAperture_of_eq {s : State} {n : Fin 16} {f : Aperture → Aperture} (h : f s.apertures[n.val] = s.apertures[n.val]) :
    onAperture n f s = s := by
  rw [onAperture, h, Vector.set_getElem_self]

theorem onSettings_of_eq {s : State} {x : Branch} {f : BranchSettings → BranchSettings}
    (h : f (unitOf s x).settings = (unitOf s x).settings) : onSettings x f s = s := by
  rw [onSettings, ← onUnit_id x s, onUnit_onUnit]
  exact onUnit_congr (by rw [h])

/-- Settles O7: each settings register by its own word. -/
theorem settingsWrittenBackAreUnchanged : Obligations.SettingsWrittenBackAreUnchanged := by
  intro m o r s hrun hrange hok hreg hr
  obtain ⟨hquotas, hclaim, hres, hdivisor, hdivisor', happertures, hsettings⟩ := hrange
  refine exec_registerWrite_of_effect hrun hreg ?_ m
  rcases hr with rfl | rfl | rfl | rfl | rfl | ⟨n, rfl⟩ | ⟨n, rfl⟩ | ⟨x, rfl⟩ | ⟨x, rfl⟩
  · exact congrArg some (writeDivisor_read hdivisor hdivisor')
  · exact congrArg some (writeQuotas_read hquotas)
  · exact congrArg some (writeClaimWindow_read hclaim)
  · exact congrArg some (writeResWindow_read hres hok)
  · exact congrArg some (writeEnables_readEnables s)
  · exact congrArg some (onAperture_of_eq (withWord0_readWord0 (happertures n)))
  · exact congrArg some (onAperture_of_eq (withWord1_readWord1 _))
  · exact congrArg some (onSettings_of_eq (withRates_readRates (hsettings x)))
  · exact congrArg some (onSettings_of_eq (withLink_readLink (hsettings x)))

end Sys2Proof.Machine
end

section
/-! The words of the views show what stands behind them, field by field (sections 9.4, 9.5, 10.6 and 10.8): the branch views. -/

-- One theorem at a time: elaborated side by side, the proofs of this text need more memory than its check allows.
set_option Elab.async false

namespace Sys2Proof.Machine

/-! ### Codes and the room they need -/

theorem codesAsListed : CodesAsListed := by
  unfold CodesAsListed
  decide

theorem widthCode_lt (w : Width) : widthCode w < 4 := by cases w <;> decide
theorem ctrlCode_lt (c : BranchState) : ctrlCode c < 4 := by cases c <;> decide
theorem sourceCode_lt (c : Source) : sourceCode c < 4 := by cases c <;> simp [sourceCode]
theorem sourceSlot_lt (c : Source) : sourceSlot c < 16 := by cases c <;> simp [sourceSlot]; omega
theorem nodeStateCode_lt (c : NodeState) : nodeStateCode c < 4 := by cases c <;> decide
theorem parityCode_lt (p : Parity) : parityCode p < 4 := by
  cases p with
  | known b => cases b <;> decide
  | unsure => decide

/-- A field at the bottom of a word that holds nothing else. -/
theorem toNat_putField_zero {len v : Nat} (hv : v < 2 ^ len) (hw : len ≤ 32) : (putField 0 len v).toNat = v := by
  rw [toNat_putField hv (by omega), Nat.pow_zero, Nat.one_mul]

/-! ### The branch status word -/

theorem toNat_statusWord {u : BranchUnit} (hfill : u.queue.length ≤ 8) (hrun : u.postedRun ≤ 15) (hdeferral : u.probeDeferral ≤ 8) :
    (statusWord u).toNat = placed [(0, ctrlCode u.ctrl), (8, u.queue.length), (16, u.postedRun), (24, u.probeDeferral)] := by
  have hctrl := ctrlCode_lt u.ctrl
  exact Layout.toNat (fs := [(0, 2, ctrlCode u.ctrl), (8, 4, u.queue.length), (16, 4, u.postedRun), (24, 4, u.probeDeferral)])
    ⟨by simp, by simp; omega⟩

/-! ### The head record's words -/

theorem headWord_of_empty {u : BranchUnit} (h : u.queue = []) (i : Nat) : headWord u i = 0 := by simp only [headWord, h]

theorem headWord_of_head {u : BranchUnit} {r : PostedRecord} {rest : List PostedRecord} (h : u.queue = r :: rest)
    (hresends : r.resendsUsed ≤ 7) (hholds : r.holdsUsed ≤ 1023) :
    (headWord u 0).toNat =
      placed [(0, 1), (1, bit u.headInFlight), (2, r.master.val), (4, widthCode r.width), (8, r.resendsUsed), (16, r.node.val)] ∧
    (headWord u 1).toNat = r.hostAddr.toNat ∧ (headWord u 2).toNat = placed [(0, r.regAddr.toNat), (16, r.holdsUsed)] ∧
    headWord u 3 = onLanes r.hostAddr.toNat r.data := by
  have hmaster := r.master.isLt
  have hwidth := widthCode_lt r.width
  have hnode := r.node.isLt
  have haddr := r.regAddr.isLt
  simp only [headWord, h, putFlag_eq, and_true]
  refine ⟨?_, toNat_putField_zero r.hostAddr.isLt (by decide), ?_⟩
  · exact Layout.toNat (fs := [(0, 1, bit true), (1, 1, bit u.headInFlight), (2, 2, r.master.val), (4, 2, widthCode r.width),
      (8, 3, r.resendsUsed), (16, 5, r.node.val)]) ⟨by simp, by simp; omega⟩
  · exact Layout.toNat (fs := [(0, 16, r.regAddr.toNat), (16, 10, r.holdsUsed)]) ⟨by simp, by simp; omega⟩

/-! ### The current transaction's words -/

theorem engineWord_of_none {u : BranchUnit} (h : u.engine = .off ∨ u.engine = .idle) :
    engineWord u 0 = putField 0 3 (engineCode u.engine) ∧ engineWord u 1 = 0 ∧ engineWord u 2 = 0 := by
  rcases h with h | h <;> simp only [engineWord, h, currentTxn, currentTimer, true_and] <;> decide

theorem engine_of_carries {u : BranchUnit} {code left : Nat} {tx : Txn} (h : Carries u code tx left) :
    currentTxn u.engine = some tx ∧ engineCode u.engine = code ∧ currentTimer u.engine = left := by
  obtain ⟨rate, he, rfl, rfl⟩ | ⟨he, rfl⟩ | ⟨he, rfl⟩ := h <;> rw [he] <;> exact ⟨rfl, rfl, rfl⟩

theorem engineCode_lt (e : Engine) : engineCode e < 8 := by cases e <;> simp [engineCode]

theorem engineWord_of_carries {u : BranchUnit} {code left : Nat} {tx : Txn} (h : Carries u code tx left) (hresends : tx.resendsUsed ≤ 7)
    (hholds : tx.holdsUsed ≤ 1023) (hleft : left ≤ 2550) :
    (engineWord u 0).toNat =
      placed [(0, code), (3, 1), (4, sourceCode tx.source), (8, sourceSlot tx.source), (16, tx.node.val), (24, opCode tx.op),
        (28, bit tx.parity)] ∧
    (engineWord u 1).toNat = placed [(0, tx.resendsUsed), (16, tx.holdsUsed)] ∧ (engineWord u 2).toNat = left := by
  obtain ⟨htx, hcode, htimer⟩ := engine_of_carries h
  have hengine := engineCode_lt u.engine
  have hsource := sourceCode_lt tx.source
  have hslot := sourceSlot_lt tx.source
  have hnode := tx.node.isLt
  have hop := opCode_lt tx.op
  simp only [engineWord, htx, hcode, htimer, putFlag_eq]
  rw [hcode] at hengine
  refine ⟨?_, ?_, toNat_putField_zero (by omega) (by decide)⟩
  · exact Layout.toNat (fs := [(0, 3, code), (3, 1, bit true), (4, 2, sourceCode tx.source), (8, 4, sourceSlot tx.source),
      (16, 5, tx.node.val), (24, 2, opCode tx.op), (28, 1, bit tx.parity)]) ⟨by simp, by simp; omega⟩
  · exact Layout.toNat (fs := [(0, 3, tx.resendsUsed), (16, 10, tx.holdsUsed)]) ⟨by simp, by simp; omega⟩

/-! ### The park slot's words -/

theorem parkWord_of_empty {u : BranchUnit} (h : u.park = none) (i : Nat) : parkWord u i = 0 := by simp only [parkWord, h]

theorem parkWord_of_parked {u : BranchUnit} {tx : Txn} {delay : HoldDelay} {left : Nat} (h : u.park = some { tx := tx, delay := delay })
    (hholds : tx.holdsUsed ≤ 1023) (hdelay : (delay = .due ∧ left = 0) ∨ (delay = .waiting left ∧ left ≤ 2550)) :
    (parkWord u 0).toNat =
      placed [(0, 1), (1, bit (delay = .due)), (4, sourceCode tx.source), (8, sourceSlot tx.source), (16, tx.node.val)] ∧
    (parkWord u 1).toNat = placed [(0, left), (16, tx.holdsUsed)] := by
  have hsource := sourceCode_lt tx.source
  have hslot := sourceSlot_lt tx.source
  have hnode := tx.node.isLt
  have hleft : left ≤ 2550 := by omega
  constructor
  · simp only [parkWord, h, putFlag_eq]
    exact Layout.toNat (fs := [(0, 1, bit true), (1, 1, bit (delay = .due)), (4, 2, sourceCode tx.source), (8, 4, sourceSlot tx.source),
      (16, 5, tx.node.val)]) ⟨by simp, by simp; omega⟩
  · have hlayout : Layout [(0, 12, left), (16, 10, tx.holdsUsed)] := ⟨by simp, by simp; omega⟩
    obtain ⟨rfl, rfl⟩ | ⟨rfl, -⟩ := hdelay <;> simp only [parkWord, h] <;> exact hlayout.toNat

/-! ### Node words and the probe set -/

theorem toNat_nodeRecordWord {r : NodeRecord} (hfailures : r.failures ≤ 15) (hdropped : r.dropped ≤ 255) :
    (nodeRecordWord r).toNat =
      placed [(0, nodeStateCode r.state), (4, r.failures), (8, parityCode r.parity), (10, bit r.nodeType.isSome),
        (16, (r.nodeType.map BitVec.toNat).getD 0), (24, r.dropped)] := by
  have hstate := nodeStateCode_lt r.state
  have hparity := parityCode_lt r.parity
  have htype : (r.nodeType.map BitVec.toNat).getD 0 < 256 := by
    cases r.nodeType with
    | none => decide
    | some b => exact b.isLt
  simp only [nodeRecordWord, putFlag_eq]
  exact Layout.toNat (fs := [(0, 2, nodeStateCode r.state), (4, 4, r.failures), (8, 2, parityCode r.parity),
    (10, 1, bit r.nodeType.isSome), (16, 8, (r.nodeType.map BitVec.toNat).getD 0), (24, 8, r.dropped)]) ⟨by simp, by simp; omega⟩

theorem getLsbD_joinFields (ws : List Word) (i : Nat) : (joinFields ws).getLsbD i = ws.any (fun w => w.getLsbD i) := by
  suffices h : ∀ w : Word, (ws.foldl (· ||| ·) w).getLsbD i = (w.getLsbD i || ws.any (fun w => w.getLsbD i)) by
    have := h 0#32
    rwa [BitVec.getLsbD_zero, Bool.false_or] at this
  induction ws with
  | nil => simp
  | cons v ws ih =>
    intro w
    rw [List.foldl_cons, ih, BitVec.getLsbD_or, List.any_cons, Bool.or_assoc]

theorem getLsbD_putFlag_true (n : Node) (i : Nat) : (putFlag n.val true).getLsbD i = decide (i = n.val) := by
  have hn := n.isLt
  have hword : putFlag n.val true = BitVec.ofNat 32 (2 ^ n.val) := by
    rw [putFlag, putField, Bool.toNat_true, Nat.shiftLeft_eq, Nat.one_mod_two_pow (by decide), Nat.one_mul]
  rw [hword, BitVec.getLsbD_ofNat, Nat.testBit_two_pow]
  by_cases h : i = n.val <;> simp [h, eq_comm]

theorem getLsbD_probeWord (ps : List Node) (n : Node) : (probeWord ps).getLsbD n.val = true ↔ n ∈ ps := by
  simp only [probeWord, getLsbD_joinFields, List.any_map, List.any_eq_true, Function.comp_apply, getLsbD_putFlag_true,
    decide_eq_true_eq, Fin.val_inj, exists_eq_right']

/-- Settles O8: each view by its own words. -/
theorem branchViewsShowTheBranch : Obligations.BranchViewsShowTheBranch := by
  refine ⟨codesAsListed, fun x s => ?_⟩
  extract_lets u word
  refine ⟨fun hcolumns hcounts => ?_, fun hempty => ?_, fun r rest hqueue hresends hholds hdata => ?_, fun hoff => ?_, fun hidle => ?_,
    fun code tx left hcarries hresends hholds hleft => engineWord_of_carries hcarries hresends hholds hleft, fun hempty => ?_,
    fun tx delay left hpark hholds hdelay => parkWord_of_parked hpark hholds hdelay, fun hcounts n hn => ?_,
    fun n => getLsbD_probeWord _ n⟩
  · obtain ⟨hrun, hdeferral, -⟩ := hcounts x
    exact toNat_statusWord (hcolumns x).fill hrun hdeferral
  · have hword := headWord_of_empty hempty
    exact ⟨congrArg BitVec.toNat (hword 0), congrArg BitVec.toNat (hword 1), congrArg BitVec.toNat (hword 2), congrArg BitVec.toNat (hword 3)⟩
  · obtain ⟨h0, h1, h2, h3⟩ := headWord_of_head hqueue hresends hholds
    refine ⟨h0, h1, h2, ?_⟩
    have hlanes := onLanes_onLanes r.hostAddr.toNat r.data hdata
    rwa [← h3] at hlanes
  · obtain ⟨h0, h1, h2⟩ := engineWord_of_none (.inl hoff)
    rw [hoff] at h0
    exact ⟨congrArg BitVec.toNat h0, congrArg BitVec.toNat h1, congrArg BitVec.toNat h2⟩
  · obtain ⟨h0, h1, h2⟩ := engineWord_of_none (.inr hidle)
    rw [hidle] at h0
    exact ⟨congrArg BitVec.toNat h0, congrArg BitVec.toNat h1, congrArg BitVec.toNat h2⟩
  · have hword := parkWord_of_empty hempty
    exact ⟨congrArg BitVec.toNat (hword 0), congrArg BitVec.toNat (hword 1)⟩
  · obtain ⟨-, -, hnodes⟩ := hcounts x
    obtain ⟨hfailures, hdropped⟩ := hnodes n
    exact toNat_nodeRecordWord hfailures hdropped

end Sys2Proof.Machine
end

section
/-! The words of the views show what stands behind them, field by field (sections 9.4, 9.5, 10.6 and 10.8): the Request Table and the
records. -/

-- One theorem at a time: elaborated side by side, the proofs of this text need more memory than its check allows.
set_option Elab.async false

namespace Sys2Proof.Machine

/-! ### What the marks of an entry say -/

theorem kindBit_eq (k : Kind) : kindBit k = decide (k = .write) := by cases k <;> rfl
theorem boolMode_eq (m : ErrorMode) : boolMode m = decide (m = .absorb) := by cases m <;> rfl
theorem isPending_eq (e : Entry) : isPending e = decide (e.state = .pending) :=
  Bool.eq_iff_iff.2 (by rw [isPending_iff, decide_eq_true_eq])
theorem isAbandoned_eq (e : Entry) : isAbandoned e = decide (e.state = .issued true) := by
  unfold isAbandoned
  split <;> simp_all
theorem isDenied_eq (o : Outcome) : isDenied o = decide (outcomeName o = .nodeDenied) := by cases o <;> rfl

theorem outcomeCode_lt (o : OutcomeName) : outcomeCode o < 8 := by cases o <;> decide
theorem reasonCode_lt (o : Outcome) : reasonCode o < 16 := by
  cases o with
  | nodeDenied r => exact r.isLt
  | _ => simp [reasonCode]
theorem entryCode_lt (st : EntryState) : entryCode st < 4 := by cases st <;> simp [entryCode]

/-! ### The slot views -/

section Slot
variable {s : State} {e : Entry}

theorem slotWord_of_free {k : Slot} (h : ∀ e ∈ s.entries, e.slot ≠ k) (i : Fin 6) : slotWord s k i = 0 := by
  have hnone : entryAt s k = none := List.find?_eq_none.2 fun e he => by simpa using h e he
  simp only [slotWord, hnone]

theorem TableOk.slotWord (hok : TableOk s) (he : e ∈ s.entries) (i : Fin 6) : slotWord s e.slot i = entryWord s e i.val := by
  simp only [Machine.slotWord, hok.entryAt he]

/-- With no slot held twice there are at most 12 entries. -/
theorem TableOk.length_entries (hok : TableOk s) : s.entries.length ≤ 12 := by
  have h := hok.slots_nodup.length_le_card
  rwa [List.length_map, Fintype.card_fin] at h

theorem TableOk.ageRank {older younger : List Entry} (hok : TableOk s) (h : s.entries = older ++ e :: younger) :
    ageRank s e.slot = older.length := by
  have hnodup := hok.slots_nodup
  rw [h, List.map_append, List.map_cons, List.nodup_append] at hnodup
  obtain ⟨-, -, hapart⟩ := hnodup
  have hnone : ∀ f ∈ older, ¬ decide (f.slot = e.slot) = true := fun f hf hslot =>
    hapart f.slot (List.mem_map_of_mem hf) e.slot List.mem_cons_self (of_decide_eq_true hslot)
  rw [Machine.ageRank, h, List.findIdx_append, List.findIdx_eq_length.2 fun f hf => by simpa using hnone f hf]
  simp [List.findIdx_cons]

theorem toNat_entryWord_zero (hrank : ageRank s e.slot < 16) : (entryWord s e 0).toNat =
    placed [(0, entryCode e.state), (4, e.master.val), (6, bit (e.kind = .write)), (7, bit (e.state = .issued true)),
      (8, widthCode e.width), (10, widthCode e.fetchWidth), (12, bit e.wordFetch), (13, bit (e.errorMode = .absorb)),
      (16, branchCode e.branch), (20, e.node.val), (28, ageRank s e.slot)] := by
  have hstate := entryCode_lt e.state
  have hmaster := e.master.isLt
  have hwidth := widthCode_lt e.width
  have hfetch := widthCode_lt e.fetchWidth
  have hbranch := branchCode_lt e.branch
  have hnode := e.node.isLt
  simp only [entryWord, putFlag_eq, kindBit_eq, isAbandoned_eq, boolMode_eq]
  exact Layout.toNat (fs := [(0, 2, entryCode e.state), (4, 2, e.master.val), (6, 1, bit (e.kind = .write)),
    (7, 1, bit (e.state = .issued true)), (8, 2, widthCode e.width), (10, 2, widthCode e.fetchWidth), (12, 1, bit e.wordFetch),
    (13, 1, bit (e.errorMode = .absorb)), (16, 2, branchCode e.branch), (20, 5, e.node.val), (28, 4, ageRank s e.slot)])
    ⟨by simp, by simp; omega⟩

theorem toNat_entryWord_one (h : e.postedAhead ≤ 8) :
    (entryWord s e 1).toNat = placed [(0, e.hostAddr.toNat), (24, e.postedAhead)] := by
  have haddr := e.hostAddr.isLt
  exact Layout.toNat (fs := [(0, 22, e.hostAddr.toNat), (24, 4, e.postedAhead)]) ⟨by simp, by simp; omega⟩

/-- Words 2, 4 and 5 of an entry that is not READY: no outcome, no read data, no claim timer. -/
theorem entryWord_of_not_ready (h : isReady e = false) : (entryWord s e 2).toNat = e.regAddr.toNat ∧ (entryWord s e 4).toNat = 0 ∧
    (entryWord s e 5).toNat = placed [(27, bit (e.state = .pending)), (28, bit (e.kind = .write))] := by
  have hnone : readyOutcome e = none ∧ readyData e = none ∧ readyClaim e = none := by
    unfold isReady at h
    unfold readyOutcome readyData readyClaim
    cases hs : e.state <;> simp_all
  obtain ⟨houtcome, hdata, hclaim⟩ := hnone
  have haddr := e.regAddr.isLt
  simp only [entryWord, houtcome, hdata, hclaim, putFlag_eq, kindBit_eq, isPending_eq]
  refine ⟨?_, rfl, ?_⟩
  · refine (Layout.toNat (fs := [(0, 16, e.regAddr.toNat), (16, 3, 0), (20, 4, 0)]) ⟨by simp, by simp; omega⟩).trans ?_
    simp
  · refine (Layout.toNat (fs := [(0, 17, 0), (27, 1, bit (e.state = .pending)), (28, 1, bit (e.kind = .write)), (29, 1, bit false),
      (30, 1, bit false), (31, 1, bit false)]) ⟨by simp, by simp⟩).trans ?_
    simp [bit]

theorem toNat_entryWord_two_of_ready {o : Outcome} {d : Option (List Byte)} {left : Option Nat} (h : e.state = .ready o d left) :
    (entryWord s e 2).toNat = placed [(0, e.regAddr.toNat), (16, outcomeCode (outcomeName o)), (20, reasonCode o)] := by
  have haddr := e.regAddr.isLt
  have hcode := outcomeCode_lt (outcomeName o)
  have hreason := reasonCode_lt o
  simp only [entryWord, readyOutcome, h, Option.elim_some]
  exact Layout.toNat (fs := [(0, 16, e.regAddr.toNat), (16, 3, outcomeCode (outcomeName o)), (20, 4, reasonCode o)])
    ⟨by simp, by simp; omega⟩

theorem entryWord_four_of_ready {o : Outcome} {d : Option (List Byte)} {left : Option Nat} (h : e.state = .ready o d left) :
    entryWord s e 4 =
      onLanes (if e.wordFetch ∧ e.kind = .read then e.hostAddr.toNat / 4 * 4 else e.hostAddr.toNat) (d.getD []) := by
  simp only [entryWord, readyData, h, fetchBase, wordAddr, Bool.and_eq_true, decide_eq_true_eq]

theorem toNat_entryWord_five_of_ready {o : Outcome} {d : Option (List Byte)} {left : Option Nat} (h : e.state = .ready o d left)
    (hleft : ∀ n, left = some n → n ≤ 65520) : (entryWord s e 5).toNat =
      placed [(0, left.getD 0), (28, bit (e.kind = .write)), (29, bit d.isSome), (30, bit (outcomeName o = .nodeDenied)),
        (31, bit left.isSome)] := by
  have htime : left.getD 0 ≤ 65520 := by
    cases left with
    | none => decide
    | some n => exact hleft n rfl
  simp only [entryWord, readyOutcome, readyData, readyClaim, isPending, h, putFlag_eq, kindBit_eq, Option.any_some, isDenied_eq]
  refine (Layout.toNat (fs := [(0, 17, left.getD 0), (27, 1, bit false), (28, 1, bit (e.kind = .write)), (29, 1, bit d.isSome),
    (30, 1, bit (outcomeName o = .nodeDenied)), (31, 1, bit left.isSome)]) ⟨by simp, by simp; omega⟩).trans ?_
  simp [bit]

end Slot

/-! ### The waiting list and the reservations -/

theorem toNat_waitingWord {s : State} (hok : TableOk s) : (waitingWord s).toNat =
    placed ((0, s.waiting.length) :: s.waiting.zipIdx.map (fun p => (8 + 2 * p.2, p.1.val))) := by
  have hlength : s.waiting.length ≤ 4 := by
    have h := hok.waiting_nodup.length_le_card
    rwa [Fintype.card_fin] at h
  have hlayout : Layout ((0, 3, s.waiting.length) :: s.waiting.zipIdx.map (fun p => (8 + 2 * p.2, 2, p.1.val))) := by
    constructor
    · refine List.pairwise_cons.2 ⟨fun f hf => ?_, List.pairwise_map.2 (List.pairwise_iff_getElem.2 fun i j hi hj hij => ?_)⟩
      · obtain ⟨p, -, rfl⟩ := List.mem_map.1 hf
        simp only
        omega
      · simp only [List.getElem_zipIdx]
        omega
    · refine List.forall_mem_cons.2 ⟨⟨by simp, by simp only; omega⟩, fun f hf => ?_⟩
      obtain ⟨p, hp, rfl⟩ := List.mem_map.1 hf
      have hindex := List.snd_lt_of_mem_zipIdx hp
      exact ⟨by simp only; omega, p.1.isLt⟩
  have h := hlayout.toNat
  simpa only [waitingWord, List.map_cons, List.map_map, Function.comp_def] using h

theorem toNat_reservationWord {r : Reservation} (h : r.remaining ≤ 1020) :
    (reservationWord (some r)).toNat = placed [(0, 1), (8, r.slot.val), (16, r.remaining)] := by
  have hslot := r.slot.isLt
  exact Layout.toNat (fs := [(0, 1, 1), (8, 4, r.slot.val), (16, 10, r.remaining)]) ⟨by simp, by simp; omega⟩

/-- Settles O18: each view by its own words. -/
theorem tableViewsShowTheTable : Obligations.TableViewsShowTheTable := by
  refine ⟨codesAsListed, fun s => ⟨fun k hfree i => slotWord_of_free hfree i, fun older e younger hok hentries => ?_,
    fun hok => toNat_waitingWord hok, fun m => ⟨fun hnone => ?_, fun r hr hremaining => ?_⟩⟩⟩
  · intro word
    have he : e ∈ s.entries := by rw [hentries]; simp
    have hrank := hok.ageRank hentries
    have hslots := hok.length_entries
    rw [hentries, List.length_append, List.length_cons] at hslots
    have hword : ∀ i, readReg (.slotView e.slot i) s = entryWord s e i.val := fun i => hok.slotWord he i
    simp only [word, hword]
    refine ⟨?_, fun hahead => toNat_entryWord_one hahead, fun hdata => onLanes_onLanes _ _ hdata,
      fun hnot => entryWord_of_not_ready hnot, fun o d left hstate => ⟨?_, ?_, ?_, ?_⟩⟩
    · refine (toNat_entryWord_zero (by omega)).trans ?_
      rw [hrank]
      cases e.state <;> rfl
    · refine (toNat_entryWord_two_of_ready hstate).trans ?_
      cases o <;> rfl
    · rintro rfl
      exact congrArg BitVec.toNat (entryWord_four_of_ready hstate)
    · rintro bytes rfl hbytes
      have hlanes := onLanes_onLanes (if e.wordFetch ∧ e.kind = .read then e.hostAddr.toNat / 4 * 4 else e.hostAddr.toNat) bytes hbytes
      have hfour := entryWord_four_of_ready (s := s) hstate
      rw [Option.getD_some] at hfour
      rwa [← hfour] at hlanes
    · exact fun hleft => toNat_entryWord_five_of_ready hstate hleft
  · rw [readReg, hnone]
    rfl
  · rw [readReg, hr]
    exact toNat_reservationWord hremaining

/-! ### The records -/

theorem causeCode_lt (c : FaultCause) : causeCode c < 16 := by cases c <;> decide

theorem recordKindCode_eq (b : RecordBody) : recordKindCode b = (recordFields b).1 := by
  cases b with
  | postedDropped x n m addr why => cases why <;> rfl
  | accessFault | claimExpired | postedFlushed | nodeOffline | nodeRecovered | masterAbandoned => rfl

theorem recordKindCode_lt (b : RecordBody) : recordKindCode b < 8 := by cases b <;> simp [recordKindCode]

theorem toNat_addressWord (m : Master) (a : HostAddr) :
    (joinFields [putField 0 22 a.toNat, putField 24 2 m.val]).toNat = placed [(0, a.toNat), (24, m.val)] := by
  have haddr := a.isLt
  have hmaster := m.isLt
  exact Layout.toNat (fs := [(0, 22, a.toNat), (24, 2, m.val)]) ⟨by simp, by simp; omega⟩

theorem toNat_recordAddrWord (b : RecordBody) : (recordAddrWord b).toNat = placed (recordFields b).2.1 := by
  cases b with
  | accessFault cause m addr => exact toNat_addressWord m addr
  | claimExpired m k addr kind o => exact toNat_addressWord m addr
  | postedDropped x n m addr why => cases why <;> exact toNat_addressWord m addr
  | masterAbandoned m freed marked => exact toNat_putField m.isLt (by decide)
  | postedFlushed | nodeOffline | nodeRecovered => rfl

theorem toNat_placeWord (x : Branch) (n : Node) :
    (joinFields [putField 8 2 (branchCode x), putField 16 5 n.val]).toNat = placed [(8, branchCode x), (16, n.val)] := by
  have hbranch := branchCode_lt x
  have hnode := n.isLt
  exact Layout.toNat (fs := [(8, 2, branchCode x), (16, 5, n.val)]) ⟨by simp, by simp; omega⟩

theorem toNat_dropPlaceWord (x : Branch) (n : Node) (why : DropReason) (m : Master) (a : HostAddr) :
    (joinFields [dropWord why, putField 8 2 (branchCode x), putField 16 5 n.val]).toNat =
      placed (recordFields (.postedDropped x n m a why)).2.2.1 := by
  have hbranch := branchCode_lt x
  have hnode := n.isLt
  cases why with
  | nodeDenied r =>
    have hreason := r.isLt
    have hflat : joinFields [dropWord (.nodeDenied r), putField 8 2 (branchCode x), putField 16 5 n.val] =
        joinFields [putField 0 4 1, putField 4 4 r.toNat, putField 8 2 (branchCode x), putField 16 5 n.val] := by
      simp [joinFields, dropWord]
    rw [hflat]
    exact Layout.toNat (fs := [(0, 4, 1), (4, 4, r.toNat), (8, 2, branchCode x), (16, 5, n.val)]) ⟨by simp, by simp; omega⟩
  | busyLimit => exact Layout.toNat (fs := [(0, 4, 2), (8, 2, branchCode x), (16, 5, n.val)]) ⟨by simp, by simp; omega⟩
  | noReply => exact Layout.toNat (fs := [(0, 4, 3), (8, 2, branchCode x), (16, 5, n.val)]) ⟨by simp, by simp; omega⟩

theorem toNat_recordPlaceWord (b : RecordBody) : (recordPlaceWord b).toNat = placed (recordFields b).2.2.1 := by
  cases b with
  | accessFault cause m addr => exact toNat_putField (causeCode_lt cause) (by decide)
  | claimExpired m k addr kind o => exact toNat_putField (k.isLt.trans (by decide)) (by decide)
  | postedDropped x n m addr why => exact toNat_dropPlaceWord x n why m addr
  | postedFlushed x n => exact toNat_putField (branchCode_lt x) (by decide)
  | nodeOffline x n => exact toNat_placeWord x n
  | nodeRecovered x n => exact toNat_placeWord x n
  | masterAbandoned m freed marked => rfl

theorem toNat_recordCountWord {b : RecordBody} (h : RecordCountsInRange b) : (recordCountWord b).toNat = placed (recordFields b).2.2.2 := by
  cases b with
  | claimExpired m k addr kind o =>
    have hcode := outcomeCode_lt o
    simp only [recordCountWord, putFlag_eq, kindBit_eq]
    exact Layout.toNat (fs := [(0, 3, outcomeCode o), (4, 1, bit (kind = .write))]) ⟨by simp, by simp; omega⟩
  | postedFlushed x n =>
    have hcount : n ≤ 8 := h
    exact toNat_putField (by omega) (by decide)
  | masterAbandoned m freed marked =>
    obtain ⟨hfreed, hmarked⟩ := h
    exact Layout.toNat (fs := [(8, 4, freed), (16, 4, marked)]) ⟨by simp, by simp; omega⟩
  | postedDropped x n m addr why => cases why <;> rfl
  | accessFault | nodeOffline | nodeRecovered => rfl

theorem recordViewWord_of_empty {s : State} (h : s.records = []) (i : Fin 4) : recordViewWord s i = 0 := by
  simp only [recordViewWord, h]

theorem toNat_recordViewWord_zero {s : State} {r : ExcRecord} {rest : List ExcRecord} (h : s.records = r :: rest)
    (hlength : s.records.length ≤ 16) : (recordViewWord s 0).toNat =
      placed [(0, 1), (4, (recordFields r.body).1), (8, r.seq.toNat), (24, s.records.length)] := by
  have hkind := recordKindCode_lt r.body
  have hseq := r.seq.isLt
  have hword : recordViewWord s 0 = joinFields [putFlag 0 true, putField 4 3 (recordKindCode r.body), putField 8 8 r.seq.toNat,
      putField 24 5 s.records.length] := by
    unfold recordViewWord
    split
    next hnil => rw [h] at hnil; cases hnil
    next q qs hq =>
      rw [h] at hq
      cases hq
      rfl
  rw [hword, ← recordKindCode_eq]
  exact Layout.toNat (fs := [(0, 1, 1), (4, 3, recordKindCode r.body), (8, 8, r.seq.toNat), (24, 5, s.records.length)])
    ⟨by simp, by simp; omega⟩

theorem recordPending_eq (s : State) : recordPending s = decide (s.records ≠ []) := by
  rw [recordPending]
  cases s.records <;> rfl

/-- Settles O25: each word by its own layout. -/
theorem recordAndAttentionWords : Obligations.RecordAndAttentionWords := by
  refine ⟨codesAsListed, fun s => ⟨fun hempty i => recordViewWord_of_empty hempty i, fun r rest hrecords hlength hcounts => ?_,
    toNat_putField_zero s.recordCounter.isLt (by decide), ?_, ?_, ?_⟩⟩
  · have hword : ∀ i : Fin 4, i ≠ 0 → readReg (.recordView i) s = recordViewWord s i := fun _ _ => rfl
    refine ⟨toNat_recordViewWord_zero hrecords hlength, ?_, ?_, ?_⟩ <;> rw [hword _ (by decide), recordViewWord, hrecords]
    · exact toNat_recordAddrWord r.body
    · exact toNat_recordPlaceWord r.body
    · exact toNat_recordCountWord hcounts
  · simp only [readReg, readAttentionStatus, putFlag_eq, recordPending_eq]
    exact Layout.toNat (fs := [(0, 1, bit (s.records ≠ [])), (1, 1, bit s.overrun), (4, 1, bit s.quiescedFlags.a),
      (5, 1, bit s.quiescedFlags.b), (6, 1, bit s.quiescedFlags.c), (7, 1, bit s.quiescedFlags.d), (31, 1, bit (attn s))])
      ⟨by simp, by simp⟩
  · simp only [readReg, readEnables, putFlag_eq]
    exact Layout.toNat (fs := [(0, 1, bit s.enables.recordPending), (1, 1, bit s.enables.overrun), (4, 1, bit s.enables.quiesced.a),
      (5, 1, bit s.enables.quiesced.b), (6, 1, bit s.enables.quiesced.c), (7, 1, bit s.enables.quiesced.d)]) ⟨by simp, by simp⟩
  · rw [readReg, putFlag_eq]
    exact toNat_putField_zero (Nat.lt_succ_of_le (bit_le_one _)) (by decide)

end Sys2Proof.Machine
end

section
/-! POP beside the offer of a record (sections 9.2 and 9.3, R152): what each order of the two leaves at either end of the queue's range. -/

-- One theorem at a time: elaborated side by side, the proofs of this text need more memory than its check allows.
set_option Elab.async false

namespace Sys2Proof.Machine

theorem exec_pop_of_run {s : State} (hrun : s.phase = .run) (m : Master) :
    exec (.pop m) s = .next (respond m .complete none (popRecord s)) :=
  congrArg _ (registerCommand_of_run hrun m popRecord)

theorem popRecord_of_empty {s : State} (h : s.records = []) : popRecord s = s := by
  rw [popRecord, h, List.tail_nil, ← h]

/-! ### A full queue -/

/-- POP first makes room for the record offered. -/
theorem offer_popRecord_of_full (body : RecordBody) {s : State} (h : s.records.length = 16) :
    offer body (popRecord s) =
      { s with
        records := s.records.tail ++ [{ seq := s.recordCounter, body := body }], recordCounter := s.recordCounter + 1 } := by
  have hroom : (popRecord s).records.length < 16 := by
    simp only [popRecord, List.length_tail]
    omega
  rw [offer_of_room body hroom, popRecord]

/-- The offer first finds no room: its record is lost, and POP still removes the head. -/
theorem popRecord_offer_of_full (body : RecordBody) {s : State} (h : s.records.length = 16) :
    popRecord (offer body s) = { s with records := s.records.tail, overrun := true } := by
  rw [offer_of_full body h.ge, popRecord]

/-! ### An empty queue -/

theorem offer_of_empty (body : RecordBody) {s : State} (h : s.records = []) :
    offer body s = { s with records := [{ seq := s.recordCounter, body := body }], recordCounter := s.recordCounter + 1 } := by
  have hroom : s.records.length < 16 := by simp [h]
  rw [offer_of_room body hroom, h, List.nil_append]

/-- The offer first makes its record the head, which POP removes; the number it took stays used. -/
theorem popRecord_offer_of_empty (body : RecordBody) {s : State} (h : s.records = []) :
    popRecord (offer body s) = { s with recordCounter := s.recordCounter + 1 } := by
  rw [offer_of_empty body h, popRecord, List.tail_cons, ← h]

/-- POP first finds nothing to remove, and the record offered stays. -/
theorem offer_popRecord_of_empty (body : RecordBody) {s : State} (h : s.records = []) :
    offer body (popRecord s) =
      { s with records := [{ seq := s.recordCounter, body := body }], recordCounter := s.recordCounter + 1 } := by
  rw [popRecord_of_empty h, offer_of_empty body h]

/-- Settles O20: POP and the offer by their own rules, and at a full and at an empty queue by the rule of each order. -/
theorem popAndOffer : Obligations.PopAndOffer := by
  refine ⟨fun m s hrun => ?pop, fun body s hroom => ?room, fun body s hfull => ?noRoom, fun body s hfull => ⟨?_, ?_⟩,
    fun body s hempty => ⟨?_, ?_⟩⟩
  case pop => exact exec_pop_of_run hrun m
  case room => exact offer_of_room body hroom
  case noRoom => exact offer_of_full body hfull
  · exact offer_popRecord_of_full body hfull
  · exact popRecord_offer_of_full body hfull
  · exact popRecord_offer_of_empty body hempty
  · exact offer_popRecord_of_empty body hempty

end Sys2Proof.Machine
end
